-- ==== Sys2Proof/Word.lean ====
section
/-! DEFINITION. The byte and the word container.

A native word of the block is `XLEN` bits wide, `XLEN` one of 32, 64, 128 (R5 of 00_scope.md). The width is a
parameter, so every word lives in one 128-bit container, zero-extended; `Xlen.fit` (Machine/Operands.lean) cuts
a value to its width where a word enters the block, and `State.Inv` (Safety.lean) says that the registers keep
to it. DESIGN CHOICE, log entry 1. -/

namespace Sys2Proof

/-- The addressable unit: "1 byte of 8 bits" (R32 of 20_memory.md). -/
abbrev Byte := BitVec 8

/-- A native word, zero-extended to the widest of the three widths (R5). -/
abbrev Word := BitVec 128

end Sys2Proof
end

