-- ==== Sys2Proof/Machine/Flags.lean ====
section
/-! DEFINITION. The block has no status flags or condition codes (R28 of 10_state.md). What stands in their place
is computed here: the Boolean results of the `is_` operations and the one test they all make. -/

namespace Sys2Proof

/-- A Boolean as a result word: 1 for true, 0 for false (R50 of 30_encoding.md). -/
def boolWord (b : Bool) : Word := if b then 1 else 0

/-- The whole-byte test of R64 and R67: "whether its stored value is nonzero". -/
def nonzeroByte (b : Byte) : Bool := decide (b ≠ 0x00)

end Sys2Proof
end

