-- ==== Sys2Proof/Config.lean ====
section
/-! DEFINITION. The parameters of one instance of the block (R5 to R11 of 00_scope.md) and the values the spec
leaves free. A parameter is fixed for the life of the instance; no step changes it (R29 of 10_state.md). The
parameters are plain data and stand in `State.cfg`, so that a statement about every state holds for every value
of every parameter. DESIGN CHOICE, log entry 2. -/

namespace Sys2Proof

/-- The three widths of the native word: "bit 31/63/127" (R5). -/
inductive Xlen where
  | x32
  | x64
  | x128
  deriving DecidableEq, Repr

/-- `XLEN` in bits (R5). -/
def Xlen.bits : Xlen → Nat
  | .x32 => 32
  | .x64 => 64
  | .x128 => 128

/-- One point at which `HartBase` differs from its default: `HartBase(base, hart) = addr` (R11). -/
structure HartBaseEntry where
  base : Nat
  hart : Nat
  addr : Nat
  deriving DecidableEq, Repr

/-- The parameters of R5 to R11. -/
structure Config where
  /-- `XLEN` (R5). -/
  xlen : Xlen
  /-- `MAX`, the largest identifier code (R6). -/
  max : Nat
  /-- `VALID`, the codes of the platform's sources, rising (R7). -/
  valid : List Nat
  /-- `EXT_MODE`: false the baseline, true the extended configuration (R8). -/
  extMode : Bool
  /-- `CSIP_CODE`, the extended software-interrupt code (R10). -/
  csipCode : Nat
  /-- `CLIC_BASE` (R11). -/
  clicBase : Nat
  /-- `HART` (R11). -/
  hart : Nat
  /-- Where the open function `HartBase` leaves its default `HartBase(b, h) = b` (R11). DESIGN CHOICE, log entry 3. -/
  hartBases : List HartBaseEntry
  /-- `CLINT_BASE` (R11). -/
  clintBase : Nat
  /-- `PLIC_BASE`: with `plicContext` the external-arbiter handle (R11, R47 of 20_memory.md). -/
  plicBase : Nat
  /-- `CONTEXT` (R11, R47). -/
  plicContext : Nat
  /-- The extent in bytes of "the external arbiter's block", which R48 keeps apart from the two others; the spec
  gives it no value. DESIGN CHOICE, log entry 3. -/
  plicBytes : Nat
  deriving DecidableEq, Repr

/-- The `n`-th draw of the four bits that `SET_LEVEL` leaves unspecified: `any_4`, "a fresh draw at each use,
under no law" (section 5 of 00_scope.md; R68 of 40_clic_accessors.md). Free value, log entry 10. -/
opaque Config.freeNibble : Nat → BitVec 4

/-- What a memory cell's byte at an address holds after the `k`-th reset until something writes it: "some value
of its width that the spec does not name", "a draw fixed at reset" (R30, R31 of 10_state.md). Free value, log
entry 4. -/
opaque Config.resetByte : Nat → Nat → Byte

/-- What the control register of a number holds after the `k`-th reset until something writes it (R30, R31). Free
value, log entry 5. -/
opaque Config.resetCsr : Nat → Nat → Word

/-- The platform that `State.reset` stands on: the parameter values of the vectors of 95_test_vectors.md, in the
extended configuration, "the configuration with the hart-local (CLIC-class) controller" (R8). DESIGN CHOICE, log
entry 2; a statement that needs a parameter's value takes it as a premise, never from here. -/
def Config.reference : Config where
  xlen := .x32
  max := 255
  valid := [3, 7, 11, 12]
  extMode := true
  csipCode := 12
  clicBase := 0x02800000
  hart := 0
  hartBases := []
  clintBase := 0x02000000
  plicBase := 0x0C000000
  plicContext := 0
  plicBytes := 0x04000000

end Sys2Proof
end

