-- ==== Sys2Proof/Syntax.lean ====
section
/-! DEFINITION. The commands of the block and what else reaches it from outside. -/

namespace Sys2Proof

/-- The trap-mode tags: "`{Direct=0, Vectored=1}`", and no others (R57 of 30_encoding.md). -/
inductive TrapMode where
  | direct
  | vectored
  deriving DecidableEq, Repr

/-- The 24 operations of R51 of 30_encoding.md with their operands: `id` a 10-bit interrupt code, `arg` the
operand word where the operation reads it (R49, R55). An operation that ignores `arg` carries none. -/
inductive Instr where
  | construct
  | mask (id : BitVec 10)
  | unmask (id : BitVec 10)
  | isEnabled (id : BitVec 10)
  | pend (id : BitVec 10)
  | unpend (id : BitVec 10)
  | isPending (id : BitVec 10)
  | setLevel (id : BitVec 10) (level : Word)
  | getLevel (id : BitVec 10)
  | idNumber (id : BitVec 10)
  | idTryFrom (code : Word)
  | mcauseBits
  | mcauseCode
  | mcauseIsInterrupt
  | mcauseIsException
  | mcauseCause
  | mcauseMpie
  | mcauseMpp
  | mcauseMinhv
  | mtvecAddress
  | mtvecTrapMode
  | mtvecWrite (addr : Word) (mode : TrapMode)
  | mtvtAddress
  | mtvtWrite (addr : Word)
  deriving DecidableEq, Repr

/-- A command as it is presented to the block: "the pair `(hdr, arg)`: `hdr` is a 16-bit header, `arg` is an
`XLEN`-bit operand word" (R49). -/
structure Command where
  hdr : BitVec 16
  arg : Word
  deriving DecidableEq, Repr

/-- What can arrive at the block: a command of an issuer (R13 a, R14 of 00_scope.md), or one step of `ENV`
(R107 of 60_exceptions.md). DESIGN CHOICE for the form, log entries 6 and 12. -/
inductive Input where
  /-- An issuer's command. -/
  | command (c : Command)
  /-- R107 (a): the trap hardware writes the cause register. -/
  | trapCause (v : Word)
  /-- R107 (b): the free-running counter is replaced. -/
  | counter (v : BitVec 64)
  /-- R107 (c): `MemRead(addr, n)` by another agent. -/
  | memRead (addr : Word) (n : Nat)
  /-- R107 (c): `MemWrite(addr, n, v)` by another agent. -/
  | memWrite (addr : Word) (n : Nat) (v : Word)
  /-- R107 (c): `CsrRead(num)` by another agent; the number is 12 bits wide (PRESUMED, R39 of 20_memory.md, log
  entry 14). -/
  | csrRead (num : BitVec 12)
  /-- R107 (c): `CsrWrite(num, v)` by another agent. -/
  | csrWrite (num : BitVec 12) (v : Word)
  /-- R107 (d), R113 of 70_reset_and_hazards.md: the external reset. -/
  | reset
  deriving DecidableEq, Repr

end Sys2Proof
end

