-- ==== Sys2Proof/Machine/Operands.lean ====
section
/-! DEFINITION. Every operand form: how an operand becomes an address or a stored value (R55, R56 of
30_encoding.md), the entry addresses of the array multiplexer (R34 of 20_memory.md), the maps of the two blocks
(R33, R37) and the constraints on the parameters (R6, R7, R10, R48). -/

namespace Sys2Proof

/-- A value cut to the native width: the low `XLEN` bits, zero-extended in the container (R5). -/
def Xlen.fit (x : Xlen) (w : Word) : Word := BitVec.ofNat 128 (w.toNat % 2 ^ x.bits)

/-! ## Constants of the hart-local block (R9, R10, R12 of 00_scope.md) -/

/-- `MSIP_CODE`, the machine-software-interrupt code (R10). -/
def msipCode : Nat := 3

/-- `EN_VALUE`, the byte `UNMASK` stores (R12). -/
def enValue : Byte := 0x01

/-- `PEND_VALUE`, the byte `PEND` stores (R12). -/
def pendValue : Byte := 0x01

/-- The bytes for "disabled" and "not pending" (R12). -/
def clearValue : Byte := 0x00

/-- The startup policy `4 << 1` that `CONSTRUCT` stores (R56, R61). -/
def startupPolicy : Byte := 0x08

/-! ## Addresses -/

/-- `HartBase(b, h)`: the listed point, else the default `b` (R11). -/
def hartBaseOf : List HartBaseEntry → Nat → Nat → Nat
  | [], b, _ => b
  | e :: rest, b, h => if e.base = b ∧ e.hart = h then e.addr else hartBaseOf rest b h

/-- `base`, the address of byte 0 of the block the handle reaches: `HartBase(CLIC_BASE, HART)` (R11). -/
def Config.base (c : Config) : Nat := hartBaseOf c.hartBases c.clicBase c.hart

/-- `PendAddr(id) = base + 0x000 + id` (R34). The sums are exact: they "do not wrap, by the constraint of rule
R48" (log entry 11). -/
def Config.pendAddr (c : Config) (id : BitVec 10) : Nat := c.base + 0x000 + id.toNat

/-- `EnabAddr(id) = base + 0x400 + id` (R34). -/
def Config.enabAddr (c : Config) (id : BitVec 10) : Nat := c.base + 0x400 + id.toNat

/-- `CfgAddr(id) = base + 0x800 + id` (R34). -/
def Config.cfgAddr (c : Config) (id : BitVec 10) : Nat := c.base + 0x800 + id.toNat

/-- `GcfgAddr = base + 0xC00` (R34). -/
def Config.gcfgAddr (c : Config) : Nat := c.base + 0xC00

/-- `MSIP` at offset 0x0000 of the timer block, 4 bytes (R37). -/
def Config.msipAddr (c : Config) : Nat := c.clintBase + 0x0000

/-- `MTIMECMP` at offset 0x4000, 8 bytes (R37). -/
def Config.mtimecmpAddr (c : Config) : Nat := c.clintBase + 0x4000

/-- `MTIME` at offset 0xBFF8, 8 bytes (R37). -/
def Config.mtimeAddr (c : Config) : Nat := c.clintBase + 0xBFF8

/-- A byte mapped to a cell of the hart-local block: offsets 0x000 to 0xC00 (R33). -/
def Config.inHartLocal (c : Config) (a : Nat) : Bool :=
  decide (c.base ≤ a) && decide (a ≤ c.base + 0xC00)

/-- A byte of one of the three timer registers (R37). -/
def Config.inTimer (c : Config) (a : Nat) : Bool :=
  (decide (c.msipAddr ≤ a) && decide (a < c.msipAddr + 4)) ||
  (decide (c.mtimecmpAddr ≤ a) && decide (a < c.mtimecmpAddr + 8)) ||
  (decide (c.mtimeAddr ≤ a) && decide (a < c.mtimeAddr + 8))

/-- A byte mapped to a cell by R33 or R37. -/
def Config.mapped (c : Config) (a : Nat) : Bool := c.inHartLocal a || c.inTimer a

/-- "The only memory accesses the spec admits": exactly 1 byte at a mapped byte of the hart-local block, exactly 4
at `MSIP`, exactly 8 at `MTIMECMP` or `MTIME` (R42). -/
def Config.admits (c : Config) (a n : Nat) : Bool :=
  (decide (n = 1) && c.inHartLocal a) ||
  (decide (n = 4) && decide (a = c.msipAddr)) ||
  (decide (n = 8) && (decide (a = c.mtimecmpAddr) || decide (a = c.mtimeAddr)))

/-- Every byte of the access is mapped to a cell (R38). -/
def Config.allMapped (c : Config) (a n : Nat) : Bool :=
  (List.range n).all fun k => c.mapped (a + k)

/-- The access touches the external arbiter's block (R47, R48). -/
def Config.touchesArbiter (c : Config) (a n : Nat) : Bool :=
  decide (a < c.plicBase + c.plicBytes) && decide (c.plicBase < a + n)

/-! ## Constraints on the parameters -/

/-- Two byte ranges, each a start and a length, share no byte. -/
def rangesApart (a n b m : Nat) : Bool := decide (a + n ≤ b) || decide (b + m ≤ a)

/-- `VALID` is a set of codes of at most `MAX`, written rising (R7). -/
def Config.validOk (c : Config) : Bool :=
  c.valid.all (fun v => decide (v ≤ c.max)) && decide (c.valid.Pairwise (· < ·))

/-- The constraints of R6, R7, R10 and R48 together. -/
def Config.wf (c : Config) : Bool :=
  decide (c.max ≤ 1023) && c.validOk &&
  decide (c.csipCode ≤ 1023) && decide (c.csipCode ≠ msipCode) &&
  decide (c.base + 0xC00 < 2 ^ c.xlen.bits) &&
  decide (c.clintBase + 0xBFFF < 2 ^ c.xlen.bits) &&
  decide (c.clintBase % 8 = 0) &&
  rangesApart c.base 0xC01 c.clintBase 0xC000 &&
  rangesApart c.base 0xC01 c.plicBase c.plicBytes &&
  rangesApart c.clintBase 0xC000 c.plicBase c.plicBytes

/-! ## Operand values -/

/-- "The two software-pendable lines": the gate of `PEND` and `UNPEND` (R10, R65, R66). -/
def Config.softPendable (c : Config) (id : BitVec 10) : Bool :=
  decide (id.toNat = msipCode) || decide (id.toNat = c.csipCode)

/-- Membership in the platform's identifier set `VALID` (R7, R73, R74). -/
def Config.isSource (c : Config) (code : Nat) : Bool := decide (code ∈ c.valid)

/-- The level operand: `arg[3:0]` (R55, R68). -/
def levelOperand (arg : Word) : BitVec 4 := arg.extractLsb' 0 4

/-- The byte `SET_LEVEL` writes: `{L, any_4}` (R68). -/
def levelByte (level low : BitVec 4) : Byte := level ++ low

/-- The level read back: `byte >> 4`, bits 7:4 (R55, R69). -/
def levelOf (b : Byte) : BitVec 4 := b.extractLsb' 4 4

/-! ## Control registers -/

/-- The three control-and-status registers of the block (R39). -/
inductive Csr where
  | mcause
  | mtvec
  | mtvt
  deriving DecidableEq, Repr

/-- Their numbers (R39). -/
def Csr.number : Csr → BitVec 12
  | .mcause => 0x342
  | .mtvec => 0x305
  | .mtvt => 0x307

/-- The register of a number; "for any other `num` the primitive is outside this spec" (R40). -/
def csrOfNumber (num : BitVec 12) : Option Csr :=
  if num = Csr.mcause.number then some .mcause
  else if num = Csr.mtvec.number then some .mtvec
  else if num = Csr.mtvt.number then some .mtvt
  else none

end Sys2Proof
end

