-- ==== Sys2Proof/Machine/State.lean ====
section
/-! DEFINITION. The state of the block as plain data, how a step can end, and the state after reset. -/

namespace Sys2Proof.Machine

/-- Memory: the bytes written since the last reset, addresses strictly rising. An unlisted address holds no
written byte; what a read of it gives is `State.unlisted` (Machine/Ops.lean). -/
abbrev Memory := List Host.Cell

/-- What the step just taken returned (R15 of 00_scope.md, R50 of 30_encoding.md). It is an output, not a
register: "no later operation reads it" (R28 of 10_state.md). DESIGN CHOICE for the form, log entry 8. -/
inductive Output where
  /-- Nothing returned: no step yet, or a step of `ENV` that returns nothing. -/
  | none
  /-- `Done(res, ok)`. -/
  | done (res : Word) (ok : Bool)
  /-- The value a raw read returned (R33, R37, R40 of 20_memory.md). -/
  | data (v : Word)
  deriving DecidableEq, Repr

/-- The one access the step just taken made, or none (R43 of 20_memory.md). DESIGN CHOICE for the form, log
entry 8. -/
inductive Access where
  | none
  | memRead (addr n : Nat)
  | memWrite (addr n : Nat) (v : Word)
  | csrRead (num : BitVec 12)
  | csrWrite (num : BitVec 12) (v : Word)
  deriving DecidableEq, Repr

/-- Reasons to stop with a fault: none. "No operation of this block raises a synchronous exception, takes a trap,
or reports a fault" (R94 of 60_exceptions.md). -/
inductive Fault where
  deriving DecidableEq, Repr

/-- Reasons to refuse. The five of R15's closed list are the spec's own outcome `Refused(reason)`: no state
changes. All are safe: nothing can be concluded from a refused input. -/
inductive Refusal where
  /-- Raised by `exec`'s arm of an instruction that has no meaning yet. Safe. -/
  | notModelled (mnemonic : String)
  /-- Raised by `step` on a command that matches no row of R51 (R53). Safe: the spec's outcome. -/
  | reservedEncoding
  /-- Raised by the eight accessors while `constructed = 0` (R70 of 40_clic_accessors.md). Safe: the spec's outcome. -/
  | notConstructed
  /-- Raised by `MCAUSE_MPIE`, `MCAUSE_MPP`, `MCAUSE_MINHV` when `EXT_MODE = 0` (R54, R84 to R86). Safe: the spec's outcome. -/
  | absentInConfiguration
  /-- Raised by `MTVEC_WRITE` when the sum reaches `2^XLEN` (R90). Safe: the spec's outcome. -/
  | sumOverflow
  /-- Raised by `ID_NUMBER` for a code outside `VALID` (R73). Safe: the spec's outcome. -/
  | notASource
  /-- Raised by a raw access that touches a byte mapped to no cell (R38). Safe: the spec refuses it. -/
  | unmappedAddress
  /-- Raised by a raw access to mapped bytes that covers no cell exactly (R42). Safe: the spec refuses it. -/
  | accessShape
  /-- Raised by a raw access that touches the external arbiter's block, whose registers the spec does not give
  (R47, U14). Safe. -/
  | externalArbiter
  /-- Raised by a raw control-register access to any number but the three (R40). Safe. -/
  | csrOutsideSpec
  deriving DecidableEq, Repr

/-- The state: the cells of 10_state.md, the outputs of the last step, what still waits to arrive, the
parameters, and the model's two counters for free values. The memory-mapped cells `PEND`, `ENAB`, `CFG`, `GCFG`,
`MSIP`, `MTIMECMP`, `MTIME` (R16 to R19, R21 to R23) are the bytes of `mem` at the addresses of R33 and R37. -/
structure State where
  /-- The parameters (R5 to R11 of 00_scope.md). No step changes them (R29). Log entry 2. -/
  cfg : Config
  /-- The handle's state bit: false Unconstructed, true Constructed (R20). -/
  constructed : Bool
  /-- `MCAUSE`, control register 0x342 (R24). -/
  mcause : Word
  /-- `MTVEC`, control register 0x305 (R25). -/
  mtvec : Word
  /-- `MTVT`, control register 0x307 (R26). -/
  mtvt : Word
  /-- The memory-mapped cells. -/
  mem : Memory
  /-- The model's own: resets so far, which picks the free contents after each. Log entry 4. -/
  resets : Nat
  /-- The model's own: free nibbles drawn so far. Log entry 10. -/
  draws : Nat
  /-- What the last step returned. -/
  out : Output
  /-- The access the last step made. -/
  bus : Access
  /-- Commands and environment steps waiting, the next first. Log entry 6. -/
  inputs : List Input
  deriving DecidableEq, Repr

/-- The state right after the `k`-th reset of a block with parameters `c`: `constructed = 0` and every other cell
unspecified (R30, R113): nothing written, and the control registers at free values of the native width. -/
def State.afterReset (c : Config) (k : Nat) (draws : Nat) (waiting : List Input) : State where
  cfg := c
  constructed := false
  mcause := c.xlen.fit (Config.resetCsr k 0x342)
  mtvec := c.xlen.fit (Config.resetCsr k 0x305)
  mtvt := c.xlen.fit (Config.resetCsr k 0x307)
  mem := []
  resets := k
  draws := draws
  out := .none
  bus := .none
  inputs := waiting

/-- The machine right after reset: the reference platform, nothing waiting. -/
def State.reset : State := State.afterReset Config.reference 0 0 []

end Sys2Proof.Machine
end

