-- ==== Sys2Proof/Machine/Ops.lean ====
section
/-! DEFINITION. The named operations over memory, registers and outputs that every meaning is written with.

TAKING AN EXCEPTION: no operation of this block takes one (R94 of 60_exceptions.md) and trap entry and return are
not performed by it (R101, R103). The part of a trap the block can see is the cause register changing under it,
`State.recordCause` (R107 a). -/

namespace Sys2Proof.Machine

/-! ## Memory as data -/

/-- The byte last written to an address, if any was. -/
def Memory.read : Memory → Nat → Option Byte
  | [], _ => none
  | (b, w) :: rest, a => if a = b then some w else Memory.read rest a

/-- Write one byte, keeping the addresses strictly rising. -/
def Memory.write : Memory → Nat → Byte → Memory
  | [], a, v => [(a, v)]
  | (b, w) :: rest, a, v =>
    if a < b then (a, v) :: (b, w) :: rest
    else if a = b then (a, v) :: rest
    else (b, w) :: Memory.write rest a v

/-- The canonical form: addresses strictly rising. An unlisted address holds no written byte, and no entry can
equal that (log entry 4). -/
def Memory.wf (m : Memory) : Bool := decide (m.Pairwise fun c d => c.1 < d.1)

/-! ## Reading and writing cells -/

/-- What an address that nothing has written since the last reset reads as: the free byte fixed at that reset
(R30, R31 of 10_state.md). The one definition of it. -/
def State.unlisted (s : State) (a : Nat) : Byte := Config.resetByte s.resets a

/-- The byte at an address (R33). Reading changes nothing (R43). -/
def State.byteAt (s : State) (a : Nat) : Byte := (s.mem.read a).getD (s.unlisted a)

/-- Store one byte (R33). -/
def State.putByte (s : State) (a : Nat) (v : Byte) : State := { s with mem := s.mem.write a v }

/-- The value of `n` bytes, the lowest address holding the lowest bits: little-endian (R41; PRESUMED, log entry
13). -/
def State.bytesAt (s : State) (a : Nat) : Nat → Nat
  | 0 => 0
  | n + 1 => (s.byteAt a).toNat + 256 * s.bytesAt (a + 1) n

/-- Store the low `n` bytes of a value, little-endian (R41). -/
def State.putBytes (s : State) (a : Nat) : Nat → Nat → State
  | 0, _ => s
  | n + 1, v => (s.putByte a (BitVec.ofNat 8 v)).putBytes (a + 1) n (v / 256)

/-- `PEND[id]` (R16). -/
def State.pend (s : State) (id : BitVec 10) : Byte := s.byteAt (s.cfg.pendAddr id)

/-- `ENAB[id]` (R17). -/
def State.enab (s : State) (id : BitVec 10) : Byte := s.byteAt (s.cfg.enabAddr id)

/-- `CFG[id]` (R18). -/
def State.cfgByte (s : State) (id : BitVec 10) : Byte := s.byteAt (s.cfg.cfgAddr id)

/-- `GCFG` (R19). -/
def State.gcfg (s : State) : Byte := s.byteAt s.cfg.gcfgAddr

/-- `MSIP` (R21). -/
def State.msip (s : State) : BitVec 32 := BitVec.ofNat 32 (s.bytesAt s.cfg.msipAddr 4)

/-- `MTIMECMP` (R22). -/
def State.mtimecmp (s : State) : BitVec 64 := BitVec.ofNat 64 (s.bytesAt s.cfg.mtimecmpAddr 8)

/-- `MTIME` (R23). -/
def State.mtime (s : State) : BitVec 64 := BitVec.ofNat 64 (s.bytesAt s.cfg.mtimeAddr 8)

/-- `CsrRead`: the register's content (R40). -/
def State.csr (s : State) : Csr → Word
  | .mcause => s.mcause
  | .mtvec => s.mtvec
  | .mtvt => s.mtvt

/-- `CsrWrite`: replace the whole `XLEN`-bit content (R40). -/
def State.putCsr (s : State) (r : Csr) (v : Word) : State :=
  match r with
  | .mcause => { s with mcause := s.cfg.xlen.fit v }
  | .mtvec => { s with mtvec := s.cfg.xlen.fit v }
  | .mtvt => { s with mtvt := s.cfg.xlen.fit v }

/-- The operand word as the block sees it: `XLEN` bits (R49). -/
def State.operand (s : State) (arg : Word) : Word := s.cfg.xlen.fit arg

/-- The next free nibble (R68). -/
def State.freeNibble (s : State) : BitVec 4 := Config.freeNibble s.draws

/-- That nibble is used up: the next draw is another (R68: "a fresh draw at each use"). -/
def State.drawn (s : State) : State := { s with draws := s.draws + 1 }

/-! ## Ending a step -/

/-- The outputs of a step: what it returned and the access it made. -/
def State.report (s : State) (o : Output) (a : Access) : State := { s with out := o, bus := a }

/-- `Done(res, ok)` with no access at all. -/
def State.doneQuiet (s : State) (res : Word) (ok : Bool) : State := s.report (.done res ok) .none

/-- `Done(0, 1)` after a 1-byte write (R43). -/
def State.doneStore (s : State) (a : Nat) (v : Byte) : State :=
  (s.putByte a v).report (.done 0 true) (.memWrite a 1 (v.setWidth 128))

/-- `Done(res, 1)` after a 1-byte read (R43). -/
def State.doneLoad (s : State) (a : Nat) (res : Word) : State :=
  s.report (.done res true) (.memRead a 1)

/-- `Done(res, ok)` after one `CsrRead` (R43). -/
def State.doneCsrRead (s : State) (r : Csr) (res : Word) (ok : Bool) : State :=
  s.report (.done res ok) (.csrRead r.number)

/-- `Done(0, 1)` after one `CsrWrite` (R43). -/
def State.doneCsrWrite (s : State) (r : Csr) (v : Word) : State :=
  (s.putCsr r v).report (.done 0 true) (.csrWrite r.number v)

/-- The common condition of the eight accessors: refused while the handle is Unconstructed (R70 a). -/
def State.throughHandle (s : State) (t : State) : Host.Outcome State Fault Refusal :=
  if s.constructed then .next t else .refused .notConstructed

/-! ## Steps of the environment (R107) -/

/-- The trap hardware writes the cause register (R24, R107 a). Nothing else of a trap is the block's (R101). -/
def State.recordCause (s : State) (v : Word) : State := (s.putCsr .mcause v).report .none .none

/-- The free-running counter is replaced (R23, R107 b). -/
def State.replaceCounter (s : State) (v : BitVec 64) : State :=
  (s.putBytes s.cfg.mtimeAddr 8 v.toNat).report .none .none

/-- Why a raw access that is not admitted is refused: it touches a byte with no cell, the arbiter's named apart
(R38, R47), or it covers no cell exactly (R42). -/
def State.rawRefusal (s : State) (a n : Nat) : Refusal :=
  if s.cfg.allMapped a n then .accessShape
  else if s.cfg.touchesArbiter a n then .externalArbiter
  else .unmappedAddress

/-- A raw read of `n` bytes (R33, R37, R42). It needs no handle (R70 a). -/
def State.rawRead (s : State) (a n : Nat) : Host.Outcome State Fault Refusal :=
  if s.cfg.admits a n then
    .next (s.report (.data (BitVec.ofNat 128 (s.bytesAt a n))) (.memRead a n))
  else .refused (s.rawRefusal a n)

/-- A raw write of the `n`-byte value `v` (R33, R37, R42). -/
def State.rawWrite (s : State) (a n : Nat) (v : Word) : Host.Outcome State Fault Refusal :=
  if s.cfg.admits a n then
    .next ((s.putBytes a n v.toNat).report .none (.memWrite a n v))
  else .refused (s.rawRefusal a n)

/-- A raw `CsrRead` (R40). -/
def State.rawCsrRead (s : State) (num : BitVec 12) : Host.Outcome State Fault Refusal :=
  match csrOfNumber num with
  | some r => .next (s.report (.data (s.csr r)) (.csrRead num))
  | none => .refused .csrOutsideSpec

/-- A raw `CsrWrite` (R40). -/
def State.rawCsrWrite (s : State) (num : BitVec 12) (v : Word) : Host.Outcome State Fault Refusal :=
  match csrOfNumber num with
  | some r => .next ((s.putCsr r v).report .none (.csrWrite num v))
  | none => .refused .csrOutsideSpec

/-- The external reset: every cell as R30 says, the contents drawn afresh; what is still to arrive stays with its
issuers (R113). -/
def State.externalReset (s : State) : State :=
  State.afterReset s.cfg (s.resets + 1) s.draws s.inputs

end Sys2Proof.Machine
end

