-- ==== Sys2Proof/Machine/Cause.lean ====
section
/-! DEFINITION. The trap-cause decoder (R76 to R87 of 42_trap_cause.md): one `CsrRead(0x342)` and a pure function
of the word. It never writes `MCAUSE`. -/

namespace Sys2Proof

/-- The interrupt tags of R80 and R81. The words User and Supervisor are labels (PRESUMED by the spec, log entry
17). -/
inductive IntTag where
  | userSoft
  | supervisorSoft
  | machineSoft
  | userTimer
  | supervisorTimer
  | machineTimer
  | userExternal
  | supervisorExternal
  | machineExternal
  | unknown
  deriving DecidableEq, Repr

/-- The exception tags of R82. The names are labels (PRESUMED by the spec, log entry 17). -/
inductive ExcTag where
  | instructionMisaligned
  | instructionFault
  | illegalInstruction
  | breakpoint
  | loadMisaligned
  | loadFault
  | storeMisaligned
  | storeFault
  | userEnvCall
  | supervisorEnvCall
  | machineEnvCall
  | instructionPageFault
  | loadPageFault
  | storePageFault
  | unknown
  deriving DecidableEq, Repr

/-- "`{Interrupt(code), Exception(code)}`" with the code named (R58 of 30_encoding.md). -/
inductive CauseTag where
  | interrupt (t : IntTag)
  | exception (t : ExcTag)
  deriving DecidableEq, Repr

/-- `CauseCode(w)`: the word with its one most-significant bit masked off (R77). -/
def causeCode (x : Xlen) (w : Word) : Word := w &&& BitVec.ofNat 128 (2 ^ (x.bits - 1) - 1)

/-- `CauseIsInterrupt(w) = w[XLEN-1]` (R78). -/
def causeIsInterrupt (x : Xlen) (w : Word) : Bool := w.getLsbD (x.bits - 1)

/-- The baseline interrupt table (R80). -/
def intTagBaseline (c : Nat) : IntTag :=
  match c with
  | 0 => .userSoft
  | 1 => .supervisorSoft
  | 3 => .machineSoft
  | 4 => .userTimer
  | 5 => .supervisorTimer
  | 7 => .machineTimer
  | 8 => .userExternal
  | 9 => .supervisorExternal
  | 11 => .machineExternal
  | _ => .unknown

/-- The extended-controller-mode interrupt table (R81). -/
def intTagExtended (c : Nat) : IntTag :=
  match c with
  | 3 => .machineSoft
  | 7 => .machineTimer
  | 11 => .machineExternal
  | _ => .unknown

/-- The exception table, the same in both configurations (R82). -/
def excTag (c : Nat) : ExcTag :=
  match c with
  | 0 => .instructionMisaligned
  | 1 => .instructionFault
  | 2 => .illegalInstruction
  | 3 => .breakpoint
  | 4 => .loadMisaligned
  | 5 => .loadFault
  | 6 => .storeMisaligned
  | 7 => .storeFault
  | 8 => .userEnvCall
  | 9 => .supervisorEnvCall
  | 11 => .machineEnvCall
  | 12 => .instructionPageFault
  | 13 => .loadPageFault
  | 15 => .storePageFault
  | _ => .unknown

/-- `CauseTag(w)` (R83). The comparison is on the whole code. -/
def causeTag (x : Xlen) (ext : Bool) (w : Word) : CauseTag :=
  let c := (causeCode x w).toNat
  if causeIsInterrupt x w then .interrupt (if ext then intTagExtended c else intTagBaseline c)
  else .exception (excTag c)

/-- The `res` column of R80 and R81: bit 5 set, bit 4 set for a named tag, bits 3:0 its position (R58). -/
def IntTag.encoding : IntTag → Word
  | .userSoft => 0x30
  | .supervisorSoft => 0x31
  | .machineSoft => 0x33
  | .userTimer => 0x34
  | .supervisorTimer => 0x35
  | .machineTimer => 0x37
  | .userExternal => 0x38
  | .supervisorExternal => 0x39
  | .machineExternal => 0x3B
  | .unknown => 0x20

/-- The `res` column of R82 (R58). -/
def ExcTag.encoding : ExcTag → Word
  | .instructionMisaligned => 0x10
  | .instructionFault => 0x11
  | .illegalInstruction => 0x12
  | .breakpoint => 0x13
  | .loadMisaligned => 0x14
  | .loadFault => 0x15
  | .storeMisaligned => 0x16
  | .storeFault => 0x17
  | .userEnvCall => 0x18
  | .supervisorEnvCall => 0x19
  | .machineEnvCall => 0x1B
  | .instructionPageFault => 0x1C
  | .loadPageFault => 0x1D
  | .storePageFault => 0x1F
  | .unknown => 0x00

/-- The encoding of a cause tag in `res` (R58). -/
def CauseTag.encoding : CauseTag → Word
  | .interrupt t => t.encoding
  | .exception t => t.encoding

/-- `MPIE`, bit 27 for every width (R84). -/
def causeMpie (w : Word) : Bool := w.getLsbD 27

/-- `MPP`, bits 29:28 (R85). -/
def causeMpp (w : Word) : BitVec 2 := w.extractLsb' 28 2

/-- `MINHV`, bit 30 (R86). -/
def causeMinhv (w : Word) : Bool := w.getLsbD 30

namespace Machine

/-- The configuration check of R54 (a): the three extended fields exist only when `EXT_MODE = 1`. -/
def State.inExtended (s : State) (t : State) : Host.Outcome State Fault Refusal :=
  if s.cfg.extMode then .next t else .refused .absentInConfiguration

/-- `MCAUSE_BITS` (R76): the raw word. -/
def execMcauseBits (s : State) : Host.Outcome State Fault Refusal :=
  .next (s.doneCsrRead .mcause (s.csr .mcause) true)

/-- `MCAUSE_CODE` (R77). -/
def execMcauseCode (s : State) : Host.Outcome State Fault Refusal :=
  .next (s.doneCsrRead .mcause (causeCode s.cfg.xlen (s.csr .mcause)) true)

/-- `MCAUSE_IS_INTERRUPT` (R78). -/
def execMcauseIsInterrupt (s : State) : Host.Outcome State Fault Refusal :=
  .next (s.doneCsrRead .mcause (boolWord (causeIsInterrupt s.cfg.xlen (s.csr .mcause))) true)

/-- `MCAUSE_IS_EXCEPTION` (R79): the complement. -/
def execMcauseIsException (s : State) : Host.Outcome State Fault Refusal :=
  .next (s.doneCsrRead .mcause (boolWord (!causeIsInterrupt s.cfg.xlen (s.csr .mcause))) true)

/-- `MCAUSE_CAUSE` (R83). -/
def execMcauseCause (s : State) : Host.Outcome State Fault Refusal :=
  .next (s.doneCsrRead .mcause (causeTag s.cfg.xlen s.cfg.extMode (s.csr .mcause)).encoding true)

/-- `MCAUSE_MPIE` (R84). -/
def execMcauseMpie (s : State) : Host.Outcome State Fault Refusal :=
  s.inExtended (s.doneCsrRead .mcause (boolWord (causeMpie (s.csr .mcause))) true)

/-- `MCAUSE_MPP` (R85). -/
def execMcauseMpp (s : State) : Host.Outcome State Fault Refusal :=
  s.inExtended (s.doneCsrRead .mcause ((causeMpp (s.csr .mcause)).setWidth 128) true)

/-- `MCAUSE_MINHV` (R86). -/
def execMcauseMinhv (s : State) : Host.Outcome State Fault Refusal :=
  s.inExtended (s.doneCsrRead .mcause (boolWord (causeMinhv (s.csr .mcause))) true)

end Machine

end Sys2Proof
end

