-- ==== Sys2Proof/Machine/Clic.lean ====
section
/-! DEFINITION. The hart-local controller accessors (R61 to R70 of 40_clic_accessors.md). Each selects a region,
indexes it by the interrupt code and makes at most one 1-byte access. -/

namespace Sys2Proof.Machine

/-- `CONSTRUCT` (R61): `GCFG <- 0x08`, a pure write; `constructed <- 1`. Accepted in both handle states. -/
def execConstruct (s : State) : Host.Outcome State Fault Refusal :=
  .next { s.doneStore s.cfg.gcfgAddr startupPolicy with constructed := true }

/-- `MASK id` (R62): `ENAB[id] <- 0x00`. -/
def execMask (id : BitVec 10) (s : State) : Host.Outcome State Fault Refusal :=
  s.throughHandle (s.doneStore (s.cfg.enabAddr id) clearValue)

/-- `UNMASK id` (R63): `ENAB[id] <- EN_VALUE`, whatever other contexts rely on. -/
def execUnmask (id : BitVec 10) (s : State) : Host.Outcome State Fault Refusal :=
  s.throughHandle (s.doneStore (s.cfg.enabAddr id) enValue)

/-- `IS_ENABLED id` (R64): whether `ENAB[id]` is nonzero. -/
def execIsEnabled (id : BitVec 10) (s : State) : Host.Outcome State Fault Refusal :=
  s.throughHandle (s.doneLoad (s.cfg.enabAddr id) (boolWord (nonzeroByte (s.enab id))))

/-- `PEND id` (R65): `PEND[id] <- PEND_VALUE` for the two software-pendable codes; for every other code no access
and no effect, and still `Done`. -/
def execPend (id : BitVec 10) (s : State) : Host.Outcome State Fault Refusal :=
  s.throughHandle
    (if s.cfg.softPendable id then s.doneStore (s.cfg.pendAddr id) pendValue else s.doneQuiet 0 true)

/-- `UNPEND id` (R66): `PEND[id] <- 0x00` under the same gate. -/
def execUnpend (id : BitVec 10) (s : State) : Host.Outcome State Fault Refusal :=
  s.throughHandle
    (if s.cfg.softPendable id then s.doneStore (s.cfg.pendAddr id) clearValue else s.doneQuiet 0 true)

/-- `IS_PENDING id` (R67): whether `PEND[id]` is nonzero, for every code. -/
def execIsPending (id : BitVec 10) (s : State) : Host.Outcome State Fault Refusal :=
  s.throughHandle (s.doneLoad (s.cfg.pendAddr id) (boolWord (nonzeroByte (s.pend id))))

/-- `SET_LEVEL id, level` (R68): one byte write of `{level[3:0], any_4}`; the low half is a fresh free value. -/
def execSetLevel (id : BitVec 10) (level : Word) (s : State) : Host.Outcome State Fault Refusal :=
  s.throughHandle
    (s.drawn.doneStore (s.cfg.cfgAddr id) (levelByte (levelOperand (s.operand level)) s.freeNibble))

/-- `GET_LEVEL id` (R69): bits 7:4 of `CFG[id]`. -/
def execGetLevel (id : BitVec 10) (s : State) : Host.Outcome State Fault Refusal :=
  s.throughHandle (s.doneLoad (s.cfg.cfgAddr id) ((levelOf (s.cfgByte id)).setWidth 128))

end Sys2Proof.Machine
end

