-- ==== Sys2Proof/Machine/Identifier.lean ====
section
/-! DEFINITION. The identifier capability (R72 to R75 of 41_identifier.md): pure functions of the command and the
parameters. A source is represented by its code (R7 of 00_scope.md). -/

namespace Sys2Proof.Machine

/-- `ID_NUMBER id` (R73): the code of a source; refused for a code outside `VALID`. -/
def execIdNumber (id : BitVec 10) (s : State) : Host.Outcome State Fault Refusal :=
  if s.cfg.isSource id.toNat then .next (s.doneQuiet (id.setWidth 128) true)
  else .refused .notASource

/-- `ID_TRY_FROM code` (R74): the code unchanged, `ok` telling whether it is a source of at most `MAX`. -/
def execIdTryFrom (code : Word) (s : State) : Host.Outcome State Fault Refusal :=
  .next (s.doneQuiet (s.operand code)
    (decide ((s.operand code).toNat ≤ s.cfg.max) && s.cfg.isSource (s.operand code).toNat))

end Sys2Proof.Machine
end

