-- ==== Sys2Proof/Decode.lean ====
section
/-! DEFINITION. The decoder (R49, R51 to R53 of 30_encoding.md), total on every header, and the encoder written
from the same table. Decoding reads the header only (R52); the operand word passes into the operand where the
operation has one. The fixed-zero bits are part of the match. -/

namespace Sys2Proof

/-- Why a header is reserved (R53): "`op` values 0x00, 0x0C to 0x0F, 0x1D to 0x1F with any other bits; and a
listed `op` with a nonzero must-be-zero field". -/
inductive Reserved where
  | opCode
  | modeBit
  | idField
  deriving DecidableEq, Repr

/-- Field `m`, bit 15 (R49). -/
def Command.modeBit (c : Command) : Bool := c.hdr.getLsbD 15

/-- Field `op`, bits 14:10 (R49). -/
def Command.op (c : Command) : BitVec 5 := c.hdr.extractLsb' 10 5

/-- Field `id`, bits 9:0 (R49). -/
def Command.id (c : Command) : BitVec 10 := c.hdr.extractLsb' 0 10

/-- A row of R51 with `id` an operand and `m` fixed 0: mask 0xFC00. -/
def decodeWithId (c : Command) (f : BitVec 10 → Instr) : Except Reserved Instr :=
  if c.modeBit then .error .modeBit else .ok (f c.id)

/-- A row of R51 with `m` and `id` fixed 0: mask 0xFFFF. -/
def decodePlain (c : Command) (i : Instr) : Except Reserved Instr :=
  if c.modeBit then .error .modeBit
  else if c.id = 0 then .ok i
  else .error .idField

/-- The row of R51 with `m` an operand and `id` fixed 0: mask 0x7FFF. -/
def decodeWithMode (c : Command) (f : TrapMode → Instr) : Except Reserved Instr :=
  if c.id = 0 then .ok (f (if c.modeBit then .vectored else .direct)) else .error .idField

/-- The decoder: the table of R51, everything else reserved (R53). -/
def decode (c : Command) : Except Reserved Instr :=
  match c.op.toNat with
  | 0x01 => decodePlain c .construct
  | 0x02 => decodeWithId c .mask
  | 0x03 => decodeWithId c .unmask
  | 0x04 => decodeWithId c .isEnabled
  | 0x05 => decodeWithId c .pend
  | 0x06 => decodeWithId c .unpend
  | 0x07 => decodeWithId c .isPending
  | 0x08 => decodeWithId c fun id => .setLevel id c.arg
  | 0x09 => decodeWithId c .getLevel
  | 0x0A => decodeWithId c .idNumber
  | 0x0B => decodePlain c (.idTryFrom c.arg)
  | 0x10 => decodePlain c .mcauseBits
  | 0x11 => decodePlain c .mcauseCode
  | 0x12 => decodePlain c .mcauseIsInterrupt
  | 0x13 => decodePlain c .mcauseIsException
  | 0x14 => decodePlain c .mcauseCause
  | 0x15 => decodePlain c .mcauseMpie
  | 0x16 => decodePlain c .mcauseMpp
  | 0x17 => decodePlain c .mcauseMinhv
  | 0x18 => decodePlain c .mtvecAddress
  | 0x19 => decodePlain c .mtvecTrapMode
  | 0x1A => decodeWithMode c fun mode => .mtvecWrite c.arg mode
  | 0x1B => decodePlain c .mtvtAddress
  | 0x1C => decodePlain c (.mtvtWrite c.arg)
  | _ => .error .opCode

/-- A header laid out from its three fields, `{m, op, id}` (R49). -/
def headerOf (m : Bool) (op : BitVec 5) (id : BitVec 10) : BitVec 16 :=
  BitVec.ofBool m ++ op ++ id

/-- A trap mode as the one-bit operand `m`: Direct 0, Vectored 1 (R57). -/
def TrapMode.bit : TrapMode → Bool
  | .direct => false
  | .vectored => true

/-- The encoder: each row of R51 from its fields. The operand word of an operation that ignores it is 0. -/
def encode : Instr → Command
  | .construct => ⟨headerOf false 0x01 0, 0⟩
  | .mask id => ⟨headerOf false 0x02 id, 0⟩
  | .unmask id => ⟨headerOf false 0x03 id, 0⟩
  | .isEnabled id => ⟨headerOf false 0x04 id, 0⟩
  | .pend id => ⟨headerOf false 0x05 id, 0⟩
  | .unpend id => ⟨headerOf false 0x06 id, 0⟩
  | .isPending id => ⟨headerOf false 0x07 id, 0⟩
  | .setLevel id level => ⟨headerOf false 0x08 id, level⟩
  | .getLevel id => ⟨headerOf false 0x09 id, 0⟩
  | .idNumber id => ⟨headerOf false 0x0A id, 0⟩
  | .idTryFrom code => ⟨headerOf false 0x0B 0, code⟩
  | .mcauseBits => ⟨headerOf false 0x10 0, 0⟩
  | .mcauseCode => ⟨headerOf false 0x11 0, 0⟩
  | .mcauseIsInterrupt => ⟨headerOf false 0x12 0, 0⟩
  | .mcauseIsException => ⟨headerOf false 0x13 0, 0⟩
  | .mcauseCause => ⟨headerOf false 0x14 0, 0⟩
  | .mcauseMpie => ⟨headerOf false 0x15 0, 0⟩
  | .mcauseMpp => ⟨headerOf false 0x16 0, 0⟩
  | .mcauseMinhv => ⟨headerOf false 0x17 0, 0⟩
  | .mtvecAddress => ⟨headerOf false 0x18 0, 0⟩
  | .mtvecTrapMode => ⟨headerOf false 0x19 0, 0⟩
  | .mtvecWrite addr mode => ⟨headerOf mode.bit 0x1A 0, addr⟩
  | .mtvtAddress => ⟨headerOf false 0x1B 0, 0⟩
  | .mtvtWrite addr => ⟨headerOf false 0x1C 0, addr⟩

/-- The command whose bits, numbered as spec/opcode_table.json numbers them, are `w`: bits 15:0 the header, the
bits above it the operand word, and every bit at or above `nbits` zero. A command is a pair and not bytes in
memory (R49), so no byte order enters; log entry 6. -/
def tableCommand (nbits w : Nat) : Command :=
  ⟨BitVec.ofNat 16 (w % 2 ^ nbits), BitVec.ofNat 128 (w % 2 ^ nbits / 2 ^ 16)⟩

/-- The instruction the decoder reads from a table word. -/
def decodeTableWord (nbits w : Nat) : Option Instr :=
  match decode (tableCommand nbits w) with
  | .ok i => some i
  | .error _ => none

end Sys2Proof
end

