-- ==== Sys2Proof/Machine/Vector.lean ====
section
/-! DEFINITION. The trap-vector and vector-table-base decoders (R88 to R93 of 43_trap_vector.md). Each operation
makes exactly one `CsrRead` or one `CsrWrite`. -/

namespace Sys2Proof

/-- `VecAddress(w)`: the word with its low 2 bits cleared (R88). -/
def vecAddress (w : Word) : Word := w &&& ~~~0b11

/-- The mode code `w[1:0]` (R25 of 10_state.md). -/
def vecModeCode (w : Word) : BitVec 2 := w.extractLsb' 0 2

/-- `VecMode(w)`: codes 2 and 3 have a tag only in the extended configuration, where they collapse onto Direct
and Vectored (R89). -/
def vecMode (ext : Bool) (w : Word) : Option TrapMode :=
  match (vecModeCode w).toNat with
  | 0 => some .direct
  | 1 => some .vectored
  | 2 => if ext then some .direct else none
  | _ => if ext then some .vectored else none

/-- `VecPack(addr, m) = addr + m`, the exact sum (R90). -/
def vecPack (addr : Word) (mode : TrapMode) : Nat := addr.toNat + mode.bit.toNat

/-- `TableAddress(w)`: the word with its low 6 bits cleared (R91). -/
def tableAddress (w : Word) : Word := w &&& ~~~0x3F

/-- `TablePack(addr)`: the same mask before storing (R92). -/
def tablePack (addr : Word) : Word := addr &&& ~~~0x3F

namespace Machine

/-- `MTVEC_ADDRESS` (R88). -/
def execMtvecAddress (s : State) : Host.Outcome State Fault Refusal :=
  .next (s.doneCsrRead .mtvec (vecAddress (s.csr .mtvec)) true)

/-- `MTVEC_TRAP_MODE` (R89): the tag, or the raw code with `ok = 0` where the configuration gives none. -/
def execMtvecTrapMode (s : State) : Host.Outcome State Fault Refusal :=
  .next (match vecMode s.cfg.extMode (s.csr .mtvec) with
    | some mode => s.doneCsrRead .mtvec (boolWord mode.bit) true
    | none => s.doneCsrRead .mtvec ((vecModeCode (s.csr .mtvec)).setWidth 128) false)

/-- `MTVEC_WRITE addr, mode` (R90): the sum, refused when it reaches `2^XLEN`. -/
def execMtvecWrite (addr : Word) (mode : TrapMode) (s : State) : Host.Outcome State Fault Refusal :=
  if 2 ^ s.cfg.xlen.bits ≤ vecPack (s.operand addr) mode then .refused .sumOverflow
  else .next (s.doneCsrWrite .mtvec (BitVec.ofNat 128 (vecPack (s.operand addr) mode)))

/-- `MTVT_ADDRESS` (R91). -/
def execMtvtAddress (s : State) : Host.Outcome State Fault Refusal :=
  .next (s.doneCsrRead .mtvt (tableAddress (s.csr .mtvt)) true)

/-- `MTVT_WRITE addr` (R92): the address cut to a multiple of 64, silently. -/
def execMtvtWrite (addr : Word) (s : State) : Host.Outcome State Fault Refusal :=
  .next (s.doneCsrWrite .mtvt (tablePack (s.operand addr)))

end Machine

end Sys2Proof
end

