-- ==== Sys2Proof/Machine/Dispatch.lean ====
section
/-! DEFINITION. One arm per operation of R51 of 30_encoding.md. -/

namespace Sys2Proof.Machine

/-- What an operation does (R14, R15 of 00_scope.md): one atomic step, or a refusal. -/
def exec (i : Instr) (s : State) : Host.Outcome State Fault Refusal :=
  match i with
  | .construct => Sys2Proof.Machine.execConstruct s
  | .mask id => Sys2Proof.Machine.execMask id s
  | .unmask id => Sys2Proof.Machine.execUnmask id s
  | .isEnabled id => Sys2Proof.Machine.execIsEnabled id s
  | .pend id => Sys2Proof.Machine.execPend id s
  | .unpend id => Sys2Proof.Machine.execUnpend id s
  | .isPending id => Sys2Proof.Machine.execIsPending id s
  | .setLevel id level => Sys2Proof.Machine.execSetLevel id level s
  | .getLevel id => Sys2Proof.Machine.execGetLevel id s
  | .idNumber id => Sys2Proof.Machine.execIdNumber id s
  | .idTryFrom code => Sys2Proof.Machine.execIdTryFrom code s
  | .mcauseBits => Sys2Proof.Machine.execMcauseBits s
  | .mcauseCode => Sys2Proof.Machine.execMcauseCode s
  | .mcauseIsInterrupt => Sys2Proof.Machine.execMcauseIsInterrupt s
  | .mcauseIsException => Sys2Proof.Machine.execMcauseIsException s
  | .mcauseCause => Sys2Proof.Machine.execMcauseCause s
  | .mcauseMpie => Sys2Proof.Machine.execMcauseMpie s
  | .mcauseMpp => Sys2Proof.Machine.execMcauseMpp s
  | .mcauseMinhv => Sys2Proof.Machine.execMcauseMinhv s
  | .mtvecAddress => Sys2Proof.Machine.execMtvecAddress s
  | .mtvecTrapMode => Sys2Proof.Machine.execMtvecTrapMode s
  | .mtvecWrite addr mode => Sys2Proof.Machine.execMtvecWrite addr mode s
  | .mtvtAddress => Sys2Proof.Machine.execMtvtAddress s
  | .mtvtWrite addr => Sys2Proof.Machine.execMtvtWrite addr s

end Sys2Proof.Machine
end

