-- ==== Sys2Proof/Machine/Env.lean ====
section
/-! DEFINITION. What one input does: a command is decoded and performed, a step of `ENV` has its effect (R107 of
60_exceptions.md). The order of the checks is R100's: decoding, then the configuration and the operation's own
conditions, then its access. -/

namespace Sys2Proof.Machine

/-- A command: reserved headers are refused, the rest is performed (R52, R53 of 30_encoding.md). -/
def State.perform (s : State) (c : Command) : Host.Outcome State Fault Refusal :=
  match decode c with
  | .ok i => exec i s
  | .error _ => .refused .reservedEncoding

/-- One input arrives. -/
def State.receive (s : State) (inp : Input) : Host.Outcome State Fault Refusal :=
  match inp with
  | .command c => s.perform c
  | .trapCause v => .next (s.recordCause v)
  | .counter v => .next (s.replaceCounter v)
  | .memRead addr n => s.rawRead addr.toNat n
  | .memWrite addr n v => s.rawWrite addr.toNat n v
  | .csrRead num => s.rawCsrRead num
  | .csrWrite num v => s.rawCsrWrite num v
  | .reset => .next s.externalReset

/-- A step with nothing waiting: "the block itself starts nothing" (R13 of 00_scope.md), so no cell changes.
DESIGN CHOICE, log entry 7. -/
def State.idle (s : State) : State := s.report .none .none

end Sys2Proof.Machine
end

