-- ==== Sys2Proof/Machine/Step.lean ====
section
/-! DEFINITION. One step of the machine: the oldest waiting input takes full effect before the next begins (R14,
R44 of 20_memory.md). -/

namespace Sys2Proof.Machine

/-- One step. -/
def step (s : State) : Host.Outcome State Fault Refusal :=
  match s.inputs with
  | [] => .next s.idle
  | inp :: rest => { s with inputs := rest }.receive inp

/-- The state with the command of a table word put first in line, so that the next step performs it. Nothing is
loaded or fetched: commands come from an issuer (R28 of 10_state.md, log entry 6). -/
def State.withFetchWord (s : State) (nbits w : Nat) : State :=
  { s with inputs := .command (tableCommand nbits w) :: s.inputs }

end Sys2Proof.Machine
end

