-- ==== Sys2Proof/Machine/Handles.lean ====
section
/-! DEFINITION. Several handles (R110 of 60_exceptions.md, R123 of 70_reset_and_hazards.md), over the one-instance
machine, and how a run goes on after a refusal. DESIGN CHOICE for the form, log entries 9 and 16. -/

namespace Sys2Proof.Machine

/-- The state a run goes on from after one step: the next state, or, where the input was refused, the same cells
with that input gone and nothing returned: "no state changes, no result" (R15 of 00_scope.md). -/
def State.proceed (s : State) : State :=
  match step s with
  | .next t => t
  | .fault _ => s
  | .refused _ => { s with inputs := s.inputs.tail }.idle

/-- What instance `b` sees after instance `a` took a step: the memory cells are one set for both; the control
registers are "per hart by definition" (R110), so two handles of one hart share them; each keeps its own
`constructed` bit (R20, R123). An external reset of `a` is a reset of both. -/
def State.sees (b a : State) : State :=
  let b := if b.resets = a.resets then b else State.afterReset b.cfg a.resets a.draws b.inputs
  let b := { b with mem := a.mem, draws := a.draws }
  if b.cfg.hart = a.cfg.hart then { b with mcause := a.mcause, mtvec := a.mtvec, mtvt := a.mtvt } else b

/-- Instances of one system, each with the inputs of its own issuers. -/
abbrev System := List State

/-- The `k`-th handle takes one step; every other instance sees the shared cells it left. -/
def System.stepThrough (sys : System) (k : Nat) : Host.Outcome System Fault Refusal :=
  match sys[k]? with
  | none => .next sys
  | some s =>
    match step s with
    | .next t => .next (sys.mapIdx fun j b => if j = k then t else b.sees t)
    | .fault r => .fault r
    | .refused r => .refused r

end Sys2Proof.Machine
end

