-- ==== Sys2Proof/WellFormed.lean ====
section
/-! DEFINITION. Which instruction terms are commands of a block of a given width: the operand word is `XLEN` bits
(R49 of 30_encoding.md). An interrupt code is 10 bits by its type. -/

namespace Sys2Proof

/-- The operand word fits the native width (R5 of 00_scope.md, R49). -/
def Instr.wellFormed (x : Xlen) : Instr → Bool
  | .construct => true
  | .mask _ => true
  | .unmask _ => true
  | .isEnabled _ => true
  | .pend _ => true
  | .unpend _ => true
  | .isPending _ => true
  | .setLevel _ level => decide (level.toNat < 2 ^ x.bits)
  | .getLevel _ => true
  | .idNumber _ => true
  | .idTryFrom code => decide (code.toNat < 2 ^ x.bits)
  | .mcauseBits => true
  | .mcauseCode => true
  | .mcauseIsInterrupt => true
  | .mcauseIsException => true
  | .mcauseCause => true
  | .mcauseMpie => true
  | .mcauseMpp => true
  | .mcauseMinhv => true
  | .mtvecAddress => true
  | .mtvecTrapMode => true
  | .mtvecWrite addr _ => decide (addr.toNat < 2 ^ x.bits)
  | .mtvtAddress => true
  | .mtvtWrite addr => decide (addr.toNat < 2 ^ x.bits)

end Sys2Proof
end

