-- ==== Sys2Proof/Safety.lean ====
section
/-! DEFINITION. The terms claims are stated in: the invariant of the machine, what a step leaves alone, the caller's
contracts, and the operation table of R51 written out as masks. -/

namespace Sys2Proof

/-! ## The operation table -/

/-- The mnemonic of an operation (R51 of 30_encoding.md). -/
def Instr.mnemonic : Instr → String
  | .construct => "CONSTRUCT"
  | .mask _ => "MASK"
  | .unmask _ => "UNMASK"
  | .isEnabled _ => "IS_ENABLED"
  | .pend _ => "PEND"
  | .unpend _ => "UNPEND"
  | .isPending _ => "IS_PENDING"
  | .setLevel _ _ => "SET_LEVEL"
  | .getLevel _ => "GET_LEVEL"
  | .idNumber _ => "ID_NUMBER"
  | .idTryFrom _ => "ID_TRY_FROM"
  | .mcauseBits => "MCAUSE_BITS"
  | .mcauseCode => "MCAUSE_CODE"
  | .mcauseIsInterrupt => "MCAUSE_IS_INTERRUPT"
  | .mcauseIsException => "MCAUSE_IS_EXCEPTION"
  | .mcauseCause => "MCAUSE_CAUSE"
  | .mcauseMpie => "MCAUSE_MPIE"
  | .mcauseMpp => "MCAUSE_MPP"
  | .mcauseMinhv => "MCAUSE_MINHV"
  | .mtvecAddress => "MTVEC_ADDRESS"
  | .mtvecTrapMode => "MTVEC_TRAP_MODE"
  | .mtvecWrite _ _ => "MTVEC_WRITE"
  | .mtvtAddress => "MTVT_ADDRESS"
  | .mtvtWrite _ => "MTVT_WRITE"

/-- One row of R51: the mnemonic and the header's match and mask. -/
structure OpcodeRow where
  mnemonic : String
  pattern : BitVec 16
  mask : BitVec 16
  deriving DecidableEq, Repr

/-- "A command matches a row of rule R51 when `(hdr & mask) == match`" (R52). -/
def OpcodeRow.matches (r : OpcodeRow) (hdr : BitVec 16) : Bool := decide (hdr &&& r.mask = r.pattern)

/-- The rows of R51 of the controller and identifier family. -/
def memoryRows : List OpcodeRow :=
  [⟨"CONSTRUCT", 0x0400, 0xFFFF⟩, ⟨"MASK", 0x0800, 0xFC00⟩, ⟨"UNMASK", 0x0C00, 0xFC00⟩,
   ⟨"IS_ENABLED", 0x1000, 0xFC00⟩, ⟨"PEND", 0x1400, 0xFC00⟩, ⟨"UNPEND", 0x1800, 0xFC00⟩,
   ⟨"IS_PENDING", 0x1C00, 0xFC00⟩, ⟨"SET_LEVEL", 0x2000, 0xFC00⟩, ⟨"GET_LEVEL", 0x2400, 0xFC00⟩,
   ⟨"ID_NUMBER", 0x2800, 0xFC00⟩, ⟨"ID_TRY_FROM", 0x2C00, 0xFFFF⟩]

/-- The rows of R51 of the control-register family. -/
def csrRows : List OpcodeRow :=
  [⟨"MCAUSE_BITS", 0x4000, 0xFFFF⟩, ⟨"MCAUSE_CODE", 0x4400, 0xFFFF⟩,
   ⟨"MCAUSE_IS_INTERRUPT", 0x4800, 0xFFFF⟩, ⟨"MCAUSE_IS_EXCEPTION", 0x4C00, 0xFFFF⟩,
   ⟨"MCAUSE_CAUSE", 0x5000, 0xFFFF⟩, ⟨"MCAUSE_MPIE", 0x5400, 0xFFFF⟩, ⟨"MCAUSE_MPP", 0x5800, 0xFFFF⟩,
   ⟨"MCAUSE_MINHV", 0x5C00, 0xFFFF⟩, ⟨"MTVEC_ADDRESS", 0x6000, 0xFFFF⟩,
   ⟨"MTVEC_TRAP_MODE", 0x6400, 0xFFFF⟩, ⟨"MTVEC_WRITE", 0x6800, 0x7FFF⟩,
   ⟨"MTVT_ADDRESS", 0x6C00, 0xFFFF⟩, ⟨"MTVT_WRITE", 0x7000, 0xFFFF⟩]

/-- The 24 rows of R51. -/
def opcodeRows : List OpcodeRow := memoryRows ++ csrRows

/-! ## The caller's contracts (section 3 of 70_reset_and_hazards.md) -/

/-- What other contexts rely on while an operation is issued: sources that must stay masked (R116), sources whose
level must stay (R117), and whether the table base must stay (R118). Log entry 18. -/
structure Reliance where
  masked : List (BitVec 10)
  levels : List (BitVec 10)
  tableBase : Bool
  deriving DecidableEq, Repr

/-- The caller keeps the exclusivity contracts of R116, R117 and R118; no other operation has one. -/
def Instr.respects (r : Reliance) : Instr → Bool
  | .construct => true
  | .mask _ => true
  | .unmask id => decide (id ∉ r.masked)
  | .isEnabled _ => true
  | .pend _ => true
  | .unpend _ => true
  | .isPending _ => true
  | .setLevel id _ => decide (id ∉ r.levels)
  | .getLevel _ => true
  | .idNumber _ => true
  | .idTryFrom _ => true
  | .mcauseBits => true
  | .mcauseCode => true
  | .mcauseIsInterrupt => true
  | .mcauseIsException => true
  | .mcauseCause => true
  | .mcauseMpie => true
  | .mcauseMpp => true
  | .mcauseMinhv => true
  | .mtvecAddress => true
  | .mtvecTrapMode => true
  | .mtvecWrite _ _ => true
  | .mtvtAddress => true
  | .mtvtWrite _ => !r.tableBase

/-! ## Families -/

/-- The eight operations that need a constructed handle (R70 a of 40_clic_accessors.md). -/
def Instr.needsHandle : Instr → Bool
  | .construct => false
  | .mask _ => true
  | .unmask _ => true
  | .isEnabled _ => true
  | .pend _ => true
  | .unpend _ => true
  | .isPending _ => true
  | .setLevel _ _ => true
  | .getLevel _ => true
  | .idNumber _ => false
  | .idTryFrom _ => false
  | .mcauseBits => false
  | .mcauseCode => false
  | .mcauseIsInterrupt => false
  | .mcauseIsException => false
  | .mcauseCause => false
  | .mcauseMpie => false
  | .mcauseMpp => false
  | .mcauseMinhv => false
  | .mtvecAddress => false
  | .mtvecTrapMode => false
  | .mtvecWrite _ _ => false
  | .mtvtAddress => false
  | .mtvtWrite _ => false

/-- The five operations whose meaning `EXT_MODE` changes (R54). -/
def Instr.dependsOnMode : Instr → Bool
  | .construct => false
  | .mask _ => false
  | .unmask _ => false
  | .isEnabled _ => false
  | .pend _ => false
  | .unpend _ => false
  | .isPending _ => false
  | .setLevel _ _ => false
  | .getLevel _ => false
  | .idNumber _ => false
  | .idTryFrom _ => false
  | .mcauseBits => false
  | .mcauseCode => false
  | .mcauseIsInterrupt => false
  | .mcauseIsException => false
  | .mcauseCause => true
  | .mcauseMpie => true
  | .mcauseMpp => true
  | .mcauseMinhv => true
  | .mtvecAddress => false
  | .mtvecTrapMode => true
  | .mtvecWrite _ _ => false
  | .mtvtAddress => false
  | .mtvtWrite _ => false

/-- The two operations that read the identifier set (R7, R70 d). -/
def Instr.readsIdentifiers : Instr → Bool
  | .construct => false
  | .mask _ => false
  | .unmask _ => false
  | .isEnabled _ => false
  | .pend _ => false
  | .unpend _ => false
  | .isPending _ => false
  | .setLevel _ _ => false
  | .getLevel _ => false
  | .idNumber _ => true
  | .idTryFrom _ => true
  | .mcauseBits => false
  | .mcauseCode => false
  | .mcauseIsInterrupt => false
  | .mcauseIsException => false
  | .mcauseCause => false
  | .mcauseMpie => false
  | .mcauseMpp => false
  | .mcauseMinhv => false
  | .mtvecAddress => false
  | .mtvecTrapMode => false
  | .mtvecWrite _ _ => false
  | .mtvtAddress => false
  | .mtvtWrite _ => false

/-- What access an operation makes: the list of R43 of 20_memory.md, the identifier operations making none (R73, R74 of
41_identifier.md). -/
inductive AccessKind where
  | none
  | byteRead
  | byteWrite
  | byteWriteOrNone
  | csrRead (r : Csr)
  | csrWrite (r : Csr)
  deriving DecidableEq, Repr

/-- The kind of access of each operation (R43). -/
def Instr.accessKind : Instr → AccessKind
  | .construct => .byteWrite
  | .mask _ => .byteWrite
  | .unmask _ => .byteWrite
  | .isEnabled _ => .byteRead
  | .pend _ => .byteWriteOrNone
  | .unpend _ => .byteWriteOrNone
  | .isPending _ => .byteRead
  | .setLevel _ _ => .byteWrite
  | .getLevel _ => .byteRead
  | .idNumber _ => .none
  | .idTryFrom _ => .none
  | .mcauseBits => .csrRead .mcause
  | .mcauseCode => .csrRead .mcause
  | .mcauseIsInterrupt => .csrRead .mcause
  | .mcauseIsException => .csrRead .mcause
  | .mcauseCause => .csrRead .mcause
  | .mcauseMpie => .csrRead .mcause
  | .mcauseMpp => .csrRead .mcause
  | .mcauseMinhv => .csrRead .mcause
  | .mtvecAddress => .csrRead .mtvec
  | .mtvecTrapMode => .csrRead .mtvec
  | .mtvecWrite _ _ => .csrWrite .mtvec
  | .mtvtAddress => .csrRead .mtvt
  | .mtvtWrite _ => .csrWrite .mtvt

namespace Machine

/-! ## The invariant -/

/-- A register holds a value of the native width (R5). -/
abbrev State.fits (s : State) (w : Word) : Prop := w.toNat < 2 ^ s.cfg.xlen.bits

/-- The result of the last operation is a native word (R5, R15). -/
abbrev State.resultFits (s : State) : Prop :=
  match s.out with
  | .done res _ => s.fits res
  | .none => True
  | .data _ => True

/-- The invariant: the parameters keep the spec's constraints (R6, R7, R10, R48); memory is in canonical form and
lists mapped bytes only (R38: "the model holds no cell there"); the control registers and the result are of the
native width (R5). -/
abbrev State.Inv (s : State) : Prop :=
  s.cfg.wf = true ∧ s.mem.wf = true ∧ (∀ c ∈ s.mem, s.cfg.mapped c.1 = true) ∧
  s.fits s.mcause ∧ s.fits s.mtvec ∧ s.fits s.mtvt ∧ s.resultFits

/-! ## What a step leaves alone -/

/-- The three control registers are unchanged. -/
abbrev State.SameCsrs (s t : State) : Prop :=
  t.mcause = s.mcause ∧ t.mtvec = s.mtvec ∧ t.mtvt = s.mtvt

/-- The parameters, the reset count and the waiting inputs are unchanged: no operation touches them. -/
abbrev State.SameSetting (s t : State) : Prop :=
  t.cfg = s.cfg ∧ t.resets = s.resets ∧ t.inputs = s.inputs

/-- Every byte of memory reads as before. -/
def State.SameMemory (s t : State) : Prop := ∀ a, t.byteAt a = s.byteAt a

/-- Every byte of memory outside the `n` bytes from `a` reads as before. -/
def State.SameMemoryOutside (s t : State) (a n : Nat) : Prop :=
  ∀ b, b < a ∨ a + n ≤ b → t.byteAt b = s.byteAt b

/-- Nothing but the outputs changed: every cell of the block, the setting and the draws are as before. -/
abbrev State.OnlyReports (s t : State) : Prop :=
  s.SameMemory t ∧ s.SameCsrs t ∧ s.SameSetting t ∧ t.constructed = s.constructed ∧ t.draws = s.draws

/-- Only the `n` bytes of memory from `a` may have changed, and the outputs. -/
abbrev State.OnlyStores (s t : State) (a n : Nat) : Prop :=
  s.SameMemoryOutside t a n ∧ s.SameCsrs t ∧ s.SameSetting t ∧ t.constructed = s.constructed ∧ t.draws = s.draws

/-- The same state of a block in the configuration `b` (R8 of 00_scope.md). -/
def State.underMode (s : State) (b : Bool) : State := { s with cfg := { s.cfg with extMode := b } }

/-- The same state of a block with other identifier parameters (R6, R7 of 00_scope.md). -/
def State.underIdentifiers (s : State) (max : Nat) (valid : List Nat) : State :=
  { s with cfg := { s.cfg with max := max, valid := valid } }

/-- No access was made and no cell changed. -/
abbrev State.AccessedNothing (s t : State) : Prop := t.bus = .none ∧ s.OnlyReports t

/-- One byte of the hart-local block was read and no cell changed. -/
abbrev State.ReadOneByte (s t : State) : Prop :=
  ∃ a, t.bus = .memRead a 1 ∧ s.cfg.inHartLocal a = true ∧ s.OnlyReports t

/-- One byte of the hart-local block was written and no other cell of memory and no control register changed. -/
abbrev State.WroteOneByte (s t : State) : Prop :=
  ∃ a, t.bus = .memWrite a 1 ((t.byteAt a).setWidth 128) ∧ s.cfg.inHartLocal a = true ∧
    s.SameMemoryOutside t a 1 ∧ s.SameCsrs t ∧ s.SameSetting t

/-- The step made the one access of the kind, and changed nothing that access does not write, the handle's own bit and
the count of draws apart. -/
def State.Accessed (s t : State) : AccessKind → Prop
  | .none => s.AccessedNothing t
  | .byteRead => s.ReadOneByte t
  | .byteWrite => s.WroteOneByte t
  | .byteWriteOrNone => s.WroteOneByte t ∨ s.AccessedNothing t
  | .csrRead r => t.bus = .csrRead r.number ∧ s.OnlyReports t
  | .csrWrite r => t.bus = .csrWrite r.number (t.csr r) ∧ s.SameMemory t ∧ s.SameSetting t ∧
      t.constructed = s.constructed ∧ t.draws = s.draws ∧ ∀ q, q ≠ r → t.csr q = s.csr q

/-- Two outcomes agree: both complete with related states, or both are refused for the same reason. -/
def Agree (rel : State → State → Prop) : Host.Outcome State Fault Refusal → Host.Outcome State Fault Refusal → Prop
  | .next t, .next u => rel t u
  | .refused q, .refused r => q = r
  | .fault q, .fault r => q = r
  | _, _ => False

end Machine

end Sys2Proof
end

