-- ==== Sys2Proof/Certificates/Slice0/Obligations.lean ====
section
/-! DEFINITION. The statements for the provers. Each docstring names the rules of spec/ it formalises. A statement
that rests on a decision of the spec's own (D<n> of 92_eei_decisions.md) or on a choice of the model says so. -/

open Sys2Proof Sys2Proof.Machine

/-! ## Commands (30_encoding.md) -/

/-- Encoding an operation and decoding it gives the operation back, with every operand at every value. Section 3 of
30_encoding.md; the format is the spec's decision D1. -/
def Obligations.DecodeOfEncodeIsTheInstruction : Prop :=
  ∀ i : Instr, decode (encode i) = .ok i

/-- A header that decodes is the header its operation encodes to: no two headers mean one operation. -/
def Obligations.EncodeOfDecodeIsTheHeader : Prop :=
  ∀ (c : Command) (i : Instr), decode c = .ok i → (encode i).hdr = c.hdr

/-- The decoder follows the table of masks: what decodes matches a row of its own mnemonic; what does not decode
matches no row; no header matches two rows; and the operand word takes no part in selecting the operation. -/
def Obligations.DecodingFollowsTheOperationTable : Prop :=
  (∀ (c : Command) (i : Instr), decode c = .ok i →
    ∃ r ∈ opcodeRows, r.mnemonic = i.mnemonic ∧ r.matches c.hdr = true) ∧
  (∀ (c : Command) (e : Reserved), decode c = .error e → ∀ r ∈ opcodeRows, r.matches c.hdr = false) ∧
  (∀ (h : BitVec 16), ∀ r ∈ opcodeRows, ∀ q ∈ opcodeRows, r.matches h = true → q.matches h = true → r = q) ∧
  (∀ (h : BitVec 16) (a b : Word) (i : Instr), decode ⟨h, a⟩ = .ok i →
    ∃ j, decode ⟨h, b⟩ = .ok j ∧ j.mnemonic = i.mnemonic)

/-- Every operation but the four that name an operand in `arg` decodes to the same operation whatever `arg` holds. -/
def Obligations.OperandWordIsIgnoredWhereUnused : Prop :=
  ∀ (h : BitVec 16) (a b : Word) (i : Instr), decode ⟨h, a⟩ = .ok i →
    i.mnemonic ∉ ["SET_LEVEL", "ID_TRY_FROM", "MTVEC_WRITE", "MTVT_WRITE"] → decode ⟨h, b⟩ = .ok i

/-- A few commands written out bit by bit from the table, one a family and one of each reserved kind. -/
def Obligations.WrittenOutCommandsDecode : Prop :=
  decode ⟨0b0000010000000000, 0⟩ = .ok .construct ∧
  decode ⟨0b0000101111111111, 0⟩ = .ok (.mask 1023) ∧
  decode ⟨0b0010000000000111, 20⟩ = .ok (.setLevel 7 20) ∧
  decode ⟨0b0010110000000000, 300⟩ = .ok (.idTryFrom 300) ∧
  decode ⟨0b0101000000000000, 0⟩ = .ok .mcauseCause ∧
  decode ⟨0b1110100000000000, 0x2000⟩ = .ok (.mtvecWrite 0x2000 .vectored) ∧
  decode ⟨0b0000010000000001, 0⟩ = .error .idField ∧
  decode ⟨0b1000100000000111, 0⟩ = .error .modeBit ∧
  decode ⟨0b0011000000000000, 0⟩ = .error .opCode

/-- A step takes the oldest waiting input, of whatever kind, and does what that input does, at the state with it gone;
for a command that decodes, that is the operation it decodes to. With nothing waiting a step completes, reports nothing
and changes no cell. The waiting list is the model's form (log entry 6), and so is the idle step (log entry 7). -/
def Obligations.StepPerformsTheDecodedCommand : Prop :=
  (∀ (s : State) (c : Command) (rest : List Input) (i : Instr),
    s.inputs = .command c :: rest → decode c = .ok i → step s = exec i { s with inputs := rest }) ∧
  (∀ (s : State) (inp : Input) (rest : List Input),
    s.inputs = inp :: rest → step s = State.receive { s with inputs := rest } inp) ∧
  (∀ s : State, s.inputs = [] →
    ∃ t, step s = .next t ∧ t.out = .none ∧ t.bus = .none ∧ s.OnlyReports t)

/-- A command whose header matches no row of the table is refused, and the run goes on with every cell as it was.
The refusal is the spec's decision D3. -/
def Obligations.ReservedCommandIsRefusedWithNoChange : Prop :=
  ∀ (s : State) (c : Command) (rest : List Input), s.inputs = .command c :: rest →
    (∀ r ∈ opcodeRows, r.matches c.hdr = false) →
    step s = .refused .reservedEncoding ∧ { s with inputs := rest }.OnlyReports s.proceed

/-! ## Controller accessors (40_clic_accessors.md) -/

/-- `CONSTRUCT` from either handle state stores the startup policy whatever `GCFG` held, makes the handle
Constructed, and changes nothing else. Acceptance in both handle states is the spec's decision D11. -/
def Obligations.ConstructStoresTheStartupPolicy : Prop :=
  ∀ s : State, ∃ t, exec .construct s = .next t ∧
    t.gcfg = 0x08 ∧ t.constructed = true ∧ t.out = .done 0 true ∧ t.bus = .memWrite s.cfg.gcfgAddr 1 0x08 ∧
    s.SameMemoryOutside t s.cfg.gcfgAddr 1 ∧ s.SameCsrs t ∧ s.SameSetting t ∧ t.draws = s.draws

/-- `MASK id`, the header 0x0800 with `id` in its low ten bits, through a constructed handle stores 0x00 in `ENAB[id]`,
whatever it held and whether or not `id` is a source, and changes nothing else; a second `MASK id` leaves the cells of
the first. R62. -/
def Obligations.MaskDisablesItsEntryOnly : Prop :=
  ∀ (s : State) (id : BitVec 10) (arg : Word), s.constructed = true →
    decode ⟨0x0800 ||| id.setWidth 16, arg⟩ = .ok (.mask id) ∧ ∃ t, exec (.mask id) s = .next t ∧
    t.enab id = 0x00 ∧ t.out = .done 0 true ∧ t.bus = .memWrite (s.cfg.enabAddr id) 1 0x00 ∧
    s.OnlyStores t (s.cfg.enabAddr id) 1 ∧
    ∃ u, exec (.mask id) t = .next u ∧ t.OnlyReports u

/-- `UNMASK id` through a constructed handle stores `EN_VALUE` in `ENAB[id]`, whatever it held, and changes nothing
else. The byte 0x01 is the spec's decision D5. -/
def Obligations.UnmaskEnablesItsEntryOnly : Prop :=
  ∀ (s : State) (id : BitVec 10), s.constructed = true → ∃ t, exec (.unmask id) s = .next t ∧
    t.enab id = 0x01 ∧ t.out = .done 0 true ∧ t.bus = .memWrite (s.cfg.enabAddr id) 1 0x01 ∧
    s.OnlyStores t (s.cfg.enabAddr id) 1

/-- The three queries, with their headers, through a constructed handle: each reads one byte, answers from the whole of
it, for every code, and changes no cell. R64, R67, R69. -/
def Obligations.QueriesAnswerFromOneByte : Prop :=
  ∀ (s : State) (id : BitVec 10) (arg : Word), s.constructed = true →
    decode ⟨0x1000 ||| id.setWidth 16, arg⟩ = .ok (.isEnabled id) ∧
    decode ⟨0x1C00 ||| id.setWidth 16, arg⟩ = .ok (.isPending id) ∧
    decode ⟨0x2400 ||| id.setWidth 16, arg⟩ = .ok (.getLevel id) ∧
    (∃ t, exec (.isEnabled id) s = .next t ∧ t.out = .done (if s.enab id = 0 then 0 else 1) true ∧
      t.bus = .memRead (s.cfg.enabAddr id) 1 ∧ s.OnlyReports t) ∧
    (∃ t, exec (.isPending id) s = .next t ∧ t.out = .done (if s.pend id = 0 then 0 else 1) true ∧
      t.bus = .memRead (s.cfg.pendAddr id) 1 ∧ s.OnlyReports t) ∧
    (∃ t res, exec (.getLevel id) s = .next t ∧ t.out = .done res true ∧
      res.toNat = (s.cfgByte id).toNat / 16 ∧
      t.bus = .memRead (s.cfg.cfgAddr id) 1 ∧ s.OnlyReports t)

/-- `PEND id` and `UNPEND id` through a constructed handle: for the code 3 and the code `CSIP_CODE` they store 0x01
and 0x00 in `PEND[id]` and change nothing else; for every other code they complete with no access and no change. No
access in the no-op case and the byte 0x01 are the spec's decisions D12 and D5. -/
def Obligations.PendAndUnpendActOnTheSoftwareCodesOnly : Prop :=
  ∀ (s : State) (id : BitVec 10), s.constructed = true →
    (id.toNat = 3 ∨ id.toNat = s.cfg.csipCode →
      (∃ t, exec (.pend id) s = .next t ∧ t.pend id = 0x01 ∧ t.out = .done 0 true ∧
        t.bus = .memWrite (s.cfg.pendAddr id) 1 0x01 ∧ s.OnlyStores t (s.cfg.pendAddr id) 1) ∧
      (∃ t, exec (.unpend id) s = .next t ∧ t.pend id = 0x00 ∧ t.out = .done 0 true ∧
        t.bus = .memWrite (s.cfg.pendAddr id) 1 0x00 ∧ s.OnlyStores t (s.cfg.pendAddr id) 1)) ∧
    (¬(id.toNat = 3 ∨ id.toNat = s.cfg.csipCode) →
      (∃ t, exec (.pend id) s = .next t ∧ t.out = .done 0 true ∧ t.bus = .none ∧ s.OnlyReports t) ∧
      (∃ t, exec (.unpend id) s = .next t ∧ t.out = .done 0 true ∧ t.bus = .none ∧ s.OnlyReports t))

/-- `SET_LEVEL id, level` through a constructed handle makes one byte write that puts `level & 0xF` in bits 7:4 of
`CFG[id]`, and changes nothing else. Nothing is said of bits 3:0: they are a free value (U9, log entry 10), and each
execution draws the next one. -/
def Obligations.SetLevelWritesTheTopFourBits : Prop :=
  ∀ (s : State) (id : BitVec 10) (level : Word), s.constructed = true →
    ∃ t, exec (.setLevel id level) s = .next t ∧
      (t.cfgByte id).toNat / 16 = level.toNat % 16 ∧ t.out = .done 0 true ∧
      t.bus = .memWrite (s.cfg.cfgAddr id) 1 ((t.cfgByte id).setWidth 128) ∧
      s.SameMemoryOutside t (s.cfg.cfgAddr id) 1 ∧ s.SameCsrs t ∧ s.SameSetting t ∧
      t.constructed = s.constructed ∧ t.draws = s.draws + 1

/-- While the handle is Unconstructed each of the eight accessors is refused, and the run goes on with no cell
changed. The spec's decision D10. -/
def Obligations.AccessorsAreRefusedBeforeConstruction : Prop :=
  ∀ (s : State) (c : Command) (rest : List Input) (i : Instr),
    s.inputs = .command c :: rest → decode c = .ok i → i.needsHandle = true → s.constructed = false →
    step s = .refused .notConstructed ∧ { s with inputs := rest }.OnlyReports s.proceed

/-- The laws of section 5 of 40_clic_accessors.md, first part: what a query answers after a write of the same
entry. -/
def Obligations.WriteThenQueryLaws : Prop :=
  ∀ (s t : State) (id : BitVec 10) (v : Word), s.constructed = true →
    (exec (.mask id) s = .next t → ∃ u, exec (.isEnabled id) t = .next u ∧ u.out = .done 0 true) ∧
    (exec (.unmask id) s = .next t → ∃ u, exec (.isEnabled id) t = .next u ∧ u.out = .done 1 true) ∧
    (s.cfg.softPendable id = true → exec (.pend id) s = .next t →
      ∃ u, exec (.isPending id) t = .next u ∧ u.out = .done 1 true) ∧
    (s.cfg.softPendable id = true → exec (.unpend id) s = .next t →
      ∃ u, exec (.isPending id) t = .next u ∧ u.out = .done 0 true) ∧
    (s.cfg.softPendable id = false → (exec (.pend id) s = .next t ∨ exec (.unpend id) s = .next t) →
      ∃ u w, exec (.isPending id) s = .next u ∧ exec (.isPending id) t = .next w ∧ w.out = u.out) ∧
    (exec (.setLevel id v) s = .next t →
      ∃ u, exec (.getLevel id) t = .next u ∧ u.out = .done (v &&& 0xF) true)

/-- The laws of section 5 of 40_clic_accessors.md, second part: an operation changes no entry of another region and
no entry of another code, so it changes the answer of no query on them. -/
def Obligations.OperationsChangeOnlyTheirOwnEntry : Prop :=
  ∀ (i : Instr) (s t : State) (id : BitVec 10), exec i s = .next t →
    (i ≠ .mask id → i ≠ .unmask id → t.enab id = s.enab id) ∧
    (i ≠ .pend id → i ≠ .unpend id → t.pend id = s.pend id) ∧
    ((∀ level, i ≠ .setLevel id level) → t.cfgByte id = s.cfgByte id) ∧
    (i ≠ .construct → t.gcfg = s.gcfg)

/-- The pending byte of a code that is not software-pendable is changed by no operation at all. -/
def Obligations.OtherPendingBytesAreOutOfReach : Prop :=
  ∀ (i : Instr) (s t : State) (id : BitVec 10), exec i s = .next t →
    id.toNat ≠ 3 → id.toNat ≠ s.cfg.csipCode → t.pend id = s.pend id

/-- What `GCFG` holds changes no operation: with any other byte there, an operation is refused for the same reason
or completes with the same result, the same access and the same cells outside `GCFG`. The spec's decision D32. For
`SET_LEVEL` the byte compared has four free low bits; that they agree rests on the model's choice that equal counts draw
equal nibbles (log entry 10, marked unsafe), not on the spec. -/
def Obligations.GlobalConfigByteSteersNoOperation : Prop :=
  ∀ (i : Instr) (s : State) (v : Byte),
    Agree (fun t u => u.out = t.out ∧ u.bus = t.bus ∧ t.SameCsrs u ∧ u.constructed = t.constructed ∧
        ∀ a, a ≠ s.cfg.gcfgAddr → u.byteAt a = t.byteAt a)
      (exec i s) (exec i (s.putByte s.cfg.gcfgAddr v))

/-! ## Identifier capability (41_identifier.md) -/

/-- `ID_NUMBER` of a source returns its code, at most `MAX`, with no access and no change; of any other code it is
refused. The refusal is the spec's decision D13. -/
def Obligations.IdNumberIsTheIdentityOnSources : Prop :=
  ∀ (s : State) (id : BitVec 10),
    (id.toNat ∈ s.cfg.valid → ∃ t res, exec (.idNumber id) s = .next t ∧ t.out = .done res true ∧
      res.toNat = id.toNat ∧ (s.cfg.wf = true → res.toNat ≤ s.cfg.max) ∧ t.bus = .none ∧ s.OnlyReports t) ∧
    (id.toNat ∉ s.cfg.valid → exec (.idNumber id) s = .refused .notASource)

/-- `ID_TRY_FROM`, the header 0x2C00 with the code in the operand word, returns the code it was given, `ok` telling
whether the code is at most `MAX` and has a source; it makes no access and changes nothing. R74. -/
def Obligations.IdTryFromReturnsTheCodeAndWhetherItIsASource : Prop :=
  ∀ (s : State) (code : Word), s.fits code →
    decode ⟨0x2C00, code⟩ = .ok (.idTryFrom code) ∧ ∃ t ok, exec (.idTryFrom code) s = .next t ∧ t.out = .done code ok ∧
      (ok = true ↔ code.toNat ≤ s.cfg.max ∧ code.toNat ∈ s.cfg.valid) ∧ t.bus = .none ∧ s.OnlyReports t

/-- The round trip: every source comes back from its number, no code above `MAX` converts, and whatever converts is a
source whose number is the code. -/
def Obligations.IdentifierRoundTrip : Prop :=
  ∀ (s : State), s.cfg.wf = true →
    (∀ x ∈ s.cfg.valid, ∃ t u, exec (.idNumber (BitVec.ofNat 10 x)) s = .next t ∧
      t.out = .done (BitVec.ofNat 128 x) true ∧
      exec (.idTryFrom (BitVec.ofNat 128 x)) t = .next u ∧ u.out = .done (BitVec.ofNat 128 x) true) ∧
    (∀ code : Word, s.fits code → s.cfg.max < code.toNat →
      ∃ t, exec (.idTryFrom code) s = .next t ∧ t.out = .done code false) ∧
    (∀ (code res : Word) (t : State), s.fits code → exec (.idTryFrom code) s = .next t →
      t.out = .done res true → code.toNat ∈ s.cfg.valid ∧
        ∃ u, exec (.idNumber (code.setWidth 10)) t = .next u ∧ u.out = .done code true)

/-! ## Trap-cause decoder (42_trap_cause.md) -/

/-- `MCAUSE_BITS`, header 0x4000, returns the word; `MCAUSE_CODE`, header 0x4400, returns it less its one
most-significant bit, in both configurations. Each makes one register read and changes no cell. R76, R77. -/
def Obligations.CauseBitsAndCode : Prop :=
  ∀ (s : State) (arg : Word),
    decode ⟨0x4000, arg⟩ = .ok .mcauseBits ∧ decode ⟨0x4400, arg⟩ = .ok .mcauseCode ∧
    (∃ t, exec .mcauseBits s = .next t ∧ t.out = .done s.mcause true ∧ t.bus = .csrRead 0x342 ∧ s.OnlyReports t) ∧
    (∃ t res, exec .mcauseCode s = .next t ∧ t.out = .done res true ∧
      res.toNat = s.mcause.toNat % 2 ^ (s.cfg.xlen.bits - 1) ∧ t.bus = .csrRead 0x342 ∧ s.OnlyReports t)

/-- The two kind tests, headers 0x4800 and 0x4C00: bit `XLEN-1` tells interrupt from exception, and for every word
exactly one of the two answers 1. The premise that the register holds a native word is part of the invariant. R78, R79. -/
def Obligations.CauseKindsAreExclusiveAndExhaustive : Prop :=
  ∀ (s : State) (arg : Word), s.fits s.mcause →
    decode ⟨0x4800, arg⟩ = .ok .mcauseIsInterrupt ∧ decode ⟨0x4C00, arg⟩ = .ok .mcauseIsException ∧
    ∃ t u, exec .mcauseIsInterrupt s = .next t ∧ exec .mcauseIsException s = .next u ∧
      t.bus = .csrRead 0x342 ∧ u.bus = .csrRead 0x342 ∧ s.OnlyReports t ∧ s.OnlyReports u ∧
      (2 ^ (s.cfg.xlen.bits - 1) ≤ s.mcause.toNat → t.out = .done 1 true ∧ u.out = .done 0 true) ∧
      (s.mcause.toNat < 2 ^ (s.cfg.xlen.bits - 1) → t.out = .done 0 true ∧ u.out = .done 1 true)

/-- `MCAUSE_CAUSE` for every word: the defined positions of the table its kind and the configuration select, each
with the encoding of its row, and Unknown of the same kind for every other code of any width. The encoding of tags is
the spec's decision D14. -/
def Obligations.CauseTablesAreTotal : Prop :=
  ∀ (s : State) (c : Nat), s.fits s.mcause → c = s.mcause.toNat % 2 ^ (s.cfg.xlen.bits - 1) →
    ∃ t res, exec .mcauseCause s = .next t ∧ t.out = .done res true ∧ t.bus = .csrRead 0x342 ∧ s.OnlyReports t ∧
      res.toNat =
        if s.mcause.toNat < 2 ^ (s.cfg.xlen.bits - 1) then
          if c ∈ [0, 1, 2, 3, 4, 5, 6, 7, 8, 9, 11, 12, 13, 15] then 0x10 + c else 0x00
        else if s.cfg.extMode then
          if c ∈ [3, 7, 11] then 0x30 + c else 0x20
        else
          if c ∈ [0, 1, 3, 4, 5, 7, 8, 9, 11] then 0x30 + c else 0x20

/-- The extended fields: in the extended configuration bits 27, 29:28 and 30 for every width; in the baseline
configuration the three operations are refused, the spec's decision D18. -/
def Obligations.ExtendedCauseFields : Prop :=
  ∀ s : State,
    (s.cfg.extMode = true →
      (∃ t res, exec .mcauseMpie s = .next t ∧ t.out = .done res true ∧
        res.toNat = s.mcause.toNat / 2 ^ 27 % 2 ∧ t.bus = .csrRead 0x342 ∧ s.OnlyReports t) ∧
      (∃ t res, exec .mcauseMpp s = .next t ∧ t.out = .done res true ∧
        res.toNat = s.mcause.toNat / 2 ^ 28 % 4 ∧ t.bus = .csrRead 0x342 ∧ s.OnlyReports t) ∧
      (∃ t res, exec .mcauseMinhv s = .next t ∧ t.out = .done res true ∧
        res.toNat = s.mcause.toNat / 2 ^ 30 % 2 ∧ t.bus = .csrRead 0x342 ∧ s.OnlyReports t)) ∧
    (s.cfg.extMode = false →
      exec .mcauseMpie s = .refused .absentInConfiguration ∧
      exec .mcauseMpp s = .refused .absentInConfiguration ∧
      exec .mcauseMinhv s = .refused .absentInConfiguration)

/-- The overlap: the code that `MCAUSE_CODE` returns contains bits 30:27 of the word, and `MCAUSE_CAUSE` returns a
named tag (bit 4 of the result set) only when every bit of the word from `XLEN-2` down to 4 is 0, so that `MPIE`,
`MPP` and `MINHV` are 0. -/
def Obligations.NamedCauseNeedsClearExtendedFields : Prop :=
  ∀ (s : State) (t u : State) (code res : Word), s.fits s.mcause →
    exec .mcauseCode s = .next t → t.out = .done code true →
    exec .mcauseCause s = .next u → u.out = .done res true →
    code.toNat / 2 ^ 27 % 16 = s.mcause.toNat / 2 ^ 27 % 16 ∧
    (res.toNat / 16 % 2 = 1 →
      s.mcause.toNat % 2 ^ (s.cfg.xlen.bits - 1) / 16 = 0 ∧ s.mcause.toNat / 2 ^ 27 % 16 = 0)

/-! ## Trap-vector and vector-table-base decoders (43_trap_vector.md) -/

/-- `MTVEC_ADDRESS`, header 0x6000, returns the word with its low 2 bits cleared, a multiple of 4, in both
configurations; it makes one register read and changes no cell. R88. -/
def Obligations.TrapVectorAddressClearsTheModeBits : Prop :=
  ∀ (s : State) (arg : Word), decode ⟨0x6000, arg⟩ = .ok .mtvecAddress ∧
    ∃ t res, exec .mtvecAddress s = .next t ∧ t.out = .done res true ∧ res.toNat = 4 * (s.mtvec.toNat / 4) ∧
      t.bus = .csrRead 0x305 ∧ s.OnlyReports t

/-- `MTVT_ADDRESS`, header 0x6C00, returns the word with its low 6 bits cleared, a multiple of 64, in both
configurations; it makes one register read and does not change the register. That the register exists in both
configurations is the spec's decision D19. -/
def Obligations.TableBaseAddressClearsTheLowSixBits : Prop :=
  ∀ (s : State) (arg : Word), decode ⟨0x6C00, arg⟩ = .ok .mtvtAddress ∧
    ∃ t res, exec .mtvtAddress s = .next t ∧ t.out = .done res true ∧ res.toNat = 64 * (s.mtvt.toNat / 64) ∧
      t.bus = .csrRead 0x307 ∧ s.OnlyReports t

/-- `MTVEC_TRAP_MODE`: codes 0 and 1 are Direct and Vectored; codes 2 and 3 collapse onto them in the extended
configuration and are returned raw with `ok = 0` in the baseline configuration, which is the spec's decision D16. -/
def Obligations.TrapModeTable : Prop :=
  ∀ s : State, ∃ t res, exec .mtvecTrapMode s = .next t ∧
    t.bus = .csrRead 0x305 ∧ s.OnlyReports t ∧
    (s.cfg.extMode = true ∨ s.mtvec.toNat % 4 < 2 → t.out = .done res true ∧ res.toNat = s.mtvec.toNat % 2) ∧
    (s.cfg.extMode = false ∧ 2 ≤ s.mtvec.toNat % 4 → t.out = .done res false ∧ res.toNat = s.mtvec.toNat % 4)

/-- `MTVEC_WRITE addr, mode` stores the exact sum in one register write and changes nothing else, for every address,
aligned or not; the one command whose sum reaches `2^XLEN`, all ones with Vectored, is refused, the spec's decision
D17. -/
def Obligations.TrapVectorWriteStoresTheSum : Prop :=
  ∀ (s : State) (addr : Word) (mode : TrapMode), s.fits addr →
    (¬(addr.toNat = 2 ^ s.cfg.xlen.bits - 1 ∧ mode = .vectored) →
      ∃ t, exec (.mtvecWrite addr mode) s = .next t ∧
        t.mtvec.toNat = addr.toNat + (if mode = .vectored then 1 else 0) ∧ t.out = .done 0 true ∧
        t.bus = .csrWrite 0x305 t.mtvec ∧ s.SameMemory t ∧ s.SameSetting t ∧
        t.mcause = s.mcause ∧ t.mtvt = s.mtvt ∧ t.constructed = s.constructed ∧ t.draws = s.draws) ∧
    (addr.toNat = 2 ^ s.cfg.xlen.bits - 1 ∧ mode = .vectored →
      exec (.mtvecWrite addr mode) s = .refused .sumOverflow)

/-- `MTVT_WRITE addr`, the header 0x7000 with the address in the operand word, never fails: it stores the address rounded
down to a multiple of 64 in one register write and changes nothing else. R92. -/
def Obligations.TableBaseWriteTruncatesSilently : Prop :=
  ∀ (s : State) (addr : Word), s.fits addr → decode ⟨0x7000, addr⟩ = .ok (.mtvtWrite addr) ∧
    ∃ t, exec (.mtvtWrite addr) s = .next t ∧
    t.mtvt.toNat = 64 * (addr.toNat / 64) ∧ t.out = .done 0 true ∧ t.bus = .csrWrite 0x307 t.mtvt ∧
    s.SameMemory t ∧ s.SameSetting t ∧ t.mcause = s.mcause ∧ t.mtvec = s.mtvec ∧
    t.constructed = s.constructed ∧ t.draws = s.draws

/-- The laws of section 3 of 43_trap_vector.md: an aligned address and a mode come back from the trap-vector register in
both configurations; from the table base comes back the address rounded down to a multiple of 64; and of every content
the trap-vector address and mode code make up the word, and the table address of a table address is itself. -/
def Obligations.VectorRegisterRoundTrips : Prop :=
  ∀ (s : State) (addr : Word), s.fits addr →
    (∀ mode : TrapMode, addr.toNat % 4 = 0 → ∃ t u w, exec (.mtvecWrite addr mode) s = .next t ∧
      exec .mtvecAddress t = .next u ∧ u.out = .done addr true ∧
      exec .mtvecTrapMode t = .next w ∧ w.out = .done (if mode = .vectored then 1 else 0) true) ∧
    (∃ t u res, exec (.mtvtWrite addr) s = .next t ∧ exec .mtvtAddress t = .next u ∧ u.out = .done res true ∧
      res.toNat = 64 * (addr.toNat / 64) ∧ (res = addr ↔ addr.toNat % 64 = 0)) ∧
    (∀ w : Word, (vecAddress w).toNat + (vecModeCode w).toNat = w.toNat ∧
      tableAddress (tableAddress w) = tableAddress w)

/-! ## Address spaces and raw accesses (20_memory.md) -/

/-- The map of the hart-local block: at every offset 0x000 to 0xC00 a 1-byte raw write stores its byte there and
nowhere else, a 1-byte raw read returns the byte there and changes no cell, with or without a handle; and the cells of
a code are at offsets `id`, `0x400 + id` and `0x800 + id`. -/
def Obligations.HartLocalBlockMap : Prop :=
  ∀ (s : State) (addr v : Word), s.cfg.base ≤ addr.toNat → addr.toNat ≤ s.cfg.base + 0xC00 →
    (∃ t, s.receive (.memWrite addr 1 v) = .next t ∧ t.byteAt addr.toNat = v.setWidth 8 ∧
      s.OnlyStores t addr.toNat 1) ∧
    (∃ t, s.receive (.memRead addr 1) = .next t ∧ t.out = .data ((s.byteAt addr.toNat).setWidth 128) ∧
      s.OnlyReports t) ∧
    (∀ id : BitVec 10,
      (addr.toNat = s.cfg.base + id.toNat → s.byteAt addr.toNat = s.pend id) ∧
      (addr.toNat = s.cfg.base + 0x400 + id.toNat → s.byteAt addr.toNat = s.enab id) ∧
      (addr.toNat = s.cfg.base + 0x800 + id.toNat → s.byteAt addr.toNat = s.cfgByte id)) ∧
    (addr.toNat = s.cfg.base + 0xC00 → s.byteAt addr.toNat = s.gcfg)

/-- The map of the timer block: a raw write of its own width at each of the three registers stores the value and
changes no other byte, and a raw read returns the register. -/
def Obligations.TimerBlockMap : Prop :=
  ∀ (s : State) (addr v : Word),
    (addr.toNat = s.cfg.clintBase →
      (∃ t, s.receive (.memWrite addr 4 v) = .next t ∧ t.msip = v.setWidth 32 ∧ s.OnlyStores t addr.toNat 4) ∧
      (∃ t, s.receive (.memRead addr 4) = .next t ∧ t.out = .data (s.msip.setWidth 128) ∧ s.OnlyReports t)) ∧
    (addr.toNat = s.cfg.clintBase + 0x4000 →
      (∃ t, s.receive (.memWrite addr 8 v) = .next t ∧ t.mtimecmp = v.setWidth 64 ∧ s.OnlyStores t addr.toNat 8) ∧
      (∃ t, s.receive (.memRead addr 8) = .next t ∧ t.out = .data (s.mtimecmp.setWidth 128) ∧ s.OnlyReports t)) ∧
    (addr.toNat = s.cfg.clintBase + 0xBFF8 →
      (∃ t, s.receive (.memWrite addr 8 v) = .next t ∧ t.mtime = v.setWidth 64 ∧ s.OnlyStores t addr.toNat 8) ∧
      (∃ t, s.receive (.memRead addr 8) = .next t ∧ t.out = .data (s.mtime.setWidth 128) ∧ s.OnlyReports t))

/-- The multi-byte registers are little-endian: byte `k` of what a raw write stores is at `addr + k`. The byte order
is the spec's decision D22 (log entry 13). -/
def Obligations.MultiByteRegistersAreLittleEndian : Prop :=
  ∀ (s t : State) (addr v : Word) (n k : Nat), s.receive (.memWrite addr n v) = .next t → k < n →
    (t.byteAt (addr.toNat + k)).toNat = v.toNat / 2 ^ (8 * k) % 256

/-- The only raw accesses that complete are one byte in the hart-local block, four at `MSIP`, eight at `MTIMECMP` or
`MTIME`; every other is refused, the spec's decisions D23 and D24, and one that touches a byte mapped to no cell is
refused as such. The names of the refusals are the model's (log entry 15). -/
def Obligations.RawAccessesReachExactCellsOnly : Prop :=
  ∀ (s : State) (addr v : Word) (n : Nat),
    ((∃ t, s.receive (.memRead addr n) = .next t) ↔
      (n = 1 ∧ s.cfg.base ≤ addr.toNat ∧ addr.toNat ≤ s.cfg.base + 0xC00) ∨
      (n = 4 ∧ addr.toNat = s.cfg.clintBase) ∨
      (n = 8 ∧ (addr.toNat = s.cfg.clintBase + 0x4000 ∨ addr.toNat = s.cfg.clintBase + 0xBFF8))) ∧
    ((∃ t, s.receive (.memWrite addr n v) = .next t) ↔ ∃ t, s.receive (.memRead addr n) = .next t) ∧
    ((∃ k < n, s.cfg.mapped (addr.toNat + k) = false) →
      ∃ r ∈ [Refusal.unmappedAddress, Refusal.externalArbiter],
        s.receive (.memRead addr n) = .refused r ∧ s.receive (.memWrite addr n v) = .refused r)

/-- The control-register primitive on the three numbers: a write replaces the whole content, the read returns it, and
neither touches anything else. That the three are plain cells is the spec's decision D20. Two clauses are the model's
choices: a raw write of `MCAUSE` is admitted (log entry 14), and any other number, for which the primitive is outside the
spec, is refused as `csrOutsideSpec` (log entry 15). -/
def Obligations.CsrPrimitiveIsAPlainCell : Prop :=
  ∀ (s : State) (v : Word), s.fits v →
    (∃ t, s.receive (.csrWrite 0x342 v) = .next t ∧ t.mcause = v ∧ t.mtvec = s.mtvec ∧ t.mtvt = s.mtvt ∧
      s.SameMemory t ∧ s.SameSetting t ∧ t.constructed = s.constructed) ∧
    (∃ t, s.receive (.csrWrite 0x305 v) = .next t ∧ t.mtvec = v ∧ t.mcause = s.mcause ∧ t.mtvt = s.mtvt ∧
      s.SameMemory t ∧ s.SameSetting t ∧ t.constructed = s.constructed) ∧
    (∃ t, s.receive (.csrWrite 0x307 v) = .next t ∧ t.mtvt = v ∧ t.mcause = s.mcause ∧ t.mtvec = s.mtvec ∧
      s.SameMemory t ∧ s.SameSetting t ∧ t.constructed = s.constructed) ∧
    (∃ t, s.receive (.csrRead 0x342) = .next t ∧ t.out = .data s.mcause ∧ s.OnlyReports t) ∧
    (∃ t, s.receive (.csrRead 0x305) = .next t ∧ t.out = .data s.mtvec ∧ s.OnlyReports t) ∧
    (∃ t, s.receive (.csrRead 0x307) = .next t ∧ t.out = .data s.mtvt ∧ s.OnlyReports t) ∧
    (∀ num : BitVec 12, num ∉ [0x342, 0x305, 0x307] →
      s.receive (.csrRead num) = .refused .csrOutsideSpec ∧ s.receive (.csrWrite num v) = .refused .csrOutsideSpec)

/-- The entry addresses stay inside the address space and the hart-local block, and off every byte of the timer block,
its reserved bytes as well as its registers, for parameters that keep the constraints of R48 (the spec's decision D23).
-/
def Obligations.EntryAddressesDoNotWrap : Prop :=
  ∀ (c : Config) (id : BitVec 10), c.wf = true →
    (∀ a ∈ [c.pendAddr id, c.enabAddr id, c.cfgAddr id, c.gcfgAddr],
      a < 2 ^ c.xlen.bits ∧ c.inHartLocal a = true ∧ (a < c.clintBase ∨ c.clintBase + 0xC000 ≤ a) ∧
      c.inTimer a = false)

/-- Each operation makes at most one access, of the kind its rule gives it (`Instr.accessKind`): `CONSTRUCT`, `MASK`,
`UNMASK` and `SET_LEVEL` one byte write in the hart-local block, `IS_ENABLED`, `IS_PENDING` and `GET_LEVEL` one byte read
there, `PEND` and `UNPEND` one byte write or none, the identifier operations none, and each decoder one read or one write
of its own control register. After no access or a read no cell has changed; after a write nothing outside what it wrote,
the handle's own bit and the count of draws apart. The single access is the spec's decision D25, and no access in the no-op case D12. -/
def Obligations.EachOperationMakesAtMostOneAccess : Prop :=
  ∀ (i : Instr) (s t : State), exec i s = .next t → s.Accessed t i.accessKind

/-! ## The whole machine -/

/-- Every operation ends in one of two outcomes: `Done(res, ok)`, with `ok = 0` only for `ID_TRY_FROM` and for
`MTVEC_TRAP_MODE` on codes 2 and 3 in the baseline configuration; or a refusal for a reason of the closed list. -/
def Obligations.EveryOperationIsDoneOrRefused : Prop :=
  ∀ (i : Instr) (s : State),
    (∃ t res ok, exec i s = .next t ∧ t.out = .done res ok ∧
      (ok = false → (∃ code, i = .idTryFrom code) ∨
        (i = .mtvecTrapMode ∧ s.cfg.extMode = false ∧ 2 ≤ s.mtvec.toNat % 4))) ∨
    (∃ r ∈ [Refusal.notConstructed, Refusal.absentInConfiguration, Refusal.sumOverflow, Refusal.notASource],
      exec i s = .refused r)

/-- The invariant holds after every reset of a block whose parameters keep the spec's constraints. The contents after
reset are free values (log entries 4 and 5); nothing here rests on what they are. -/
def Obligations.InvariantHoldsAfterReset : Prop :=
  State.reset.Inv ∧
  ∀ (c : Config) (k d : Nat) (waiting : List Input), c.wf = true → (State.afterReset c k d waiting).Inv

/-- Every step keeps the invariant: the parameters' constraints, the canonical form of memory, no cell outside the
maps, and registers and results of the native width. -/
def Obligations.EveryStepKeepsTheInvariant : Prop :=
  ∀ s t : State, s.Inv → step s = .next t → t.Inv

/-- No step changes a parameter. -/
def Obligations.ParametersNeverChange : Prop :=
  ∀ s t : State, step s = .next t → t.cfg = s.cfg

/-- The handle becomes Constructed only by a `CONSTRUCT` and Unconstructed only by a reset. -/
def Obligations.HandleStateChangesOnlyByConstructAndReset : Prop :=
  ∀ s t : State, step s = .next t →
    (s.constructed = false → t.constructed = true →
      ∃ c rest, s.inputs = .command c :: rest ∧ decode c = .ok .construct) ∧
    (s.constructed = true → t.constructed = false → ∃ rest, s.inputs = .reset :: rest)

/-- The cause register changes only when the environment writes it or resets the block: no operation writes it, and
nothing in the arrays, the timer or any other cell ever does (no delivery step exists, the spec's decision D38). -/
def Obligations.OnlyTheEnvironmentWritesTheCause : Prop :=
  ∀ s t : State, step s = .next t → t.mcause ≠ s.mcause →
    (∃ v rest, s.inputs = .trapCause v :: rest) ∨
    (∃ v rest, s.inputs = .csrWrite 0x342 v :: rest) ∨
    (∃ rest, s.inputs = .reset :: rest)

/-- Among the operations only `MTVEC_WRITE` changes the trap-vector register and only `MTVT_WRITE` the table base,
and what `MTVT_WRITE` leaves there is a multiple of 64. -/
def Obligations.VectorRegistersChangeOnlyByTheirWrites : Prop :=
  ∀ (i : Instr) (s t : State), exec i s = .next t →
    (t.mtvec ≠ s.mtvec → ∃ addr mode, i = .mtvecWrite addr mode) ∧
    (t.mtvt ≠ s.mtvt → ∃ addr, i = .mtvtWrite addr) ∧
    (∀ addr, i = .mtvtWrite addr → t.mtvt.toNat % 64 = 0)

/-- No operation touches the software-interrupt/timer block, for parameters that keep the two blocks apart. -/
def Obligations.OperationsLeaveTheTimerBlockAlone : Prop :=
  ∀ (i : Instr) (s t : State), s.cfg.wf = true → exec i s = .next t →
    t.msip = s.msip ∧ t.mtimecmp = s.mtimecmp ∧ t.mtime = s.mtime

/-- What each step of the environment does: the cause register takes any word, the counter any value, and neither
changes any other cell. That these steps arrive as inputs is the model's form (log entry 12). -/
def Obligations.EnvironmentStepsChangeOneRegister : Prop :=
  ∀ s : State,
    (∀ v : Word, s.fits v → ∃ t, s.receive (.trapCause v) = .next t ∧ t.mcause = v ∧ t.mtvec = s.mtvec ∧
      t.mtvt = s.mtvt ∧ s.SameMemory t ∧ s.SameSetting t ∧ t.constructed = s.constructed) ∧
    (∀ v : BitVec 64, ∃ t, s.receive (.counter v) = .next t ∧ t.mtime = v ∧
      s.OnlyStores t (s.cfg.clintBase + 0xBFF8) 8)

/-- An external reset makes the handle Unconstructed and forgets every cell: what the cells hold afterwards does not
depend on what they held before. The parameters and what waits to arrive stay. That reset leaves every cell but
`constructed` unspecified is the spec's decision D29. That the unspecified contents of two states AGREE after a reset is
the model's own choice, not the spec's: the free contents depend only on the count of resets (log entries 4 and 5, marked
unsafe for a claim that compares two states). -/
def Obligations.ResetForgetsEveryCell : Prop :=
  ∀ s u : State, s.cfg = u.cfg → s.resets = u.resets →
    ∃ t w, s.receive .reset = .next t ∧ u.receive .reset = .next w ∧
      t.constructed = false ∧ t.cfg = s.cfg ∧ t.inputs = s.inputs ∧ t.resets = s.resets + 1 ∧
      t.SameCsrs w ∧ t.SameMemory w

/-- `EXT_MODE` changes the meaning of five operations and of no other: every other operation does the same in both
configurations. The whole next states are compared, so for `SET_LEVEL` the free low nibble too; that it agrees rests on
the model's choice that equal counts draw equal nibbles (log entry 10, marked unsafe), not on the spec. -/
def Obligations.ConfigurationSteersFiveOperationsOnly : Prop :=
  ∀ (i : Instr) (s : State) (b : Bool), i.dependsOnMode = false →
    Agree (fun t u => u = t.underMode b) (exec i s) (exec i (s.underMode b))

/-- The identifier set and `MAX` change the meaning of the identifier operations and of no other: every accessor
takes every code 0 to 1023 (the spec's decision D4). The whole next states are compared, so for `SET_LEVEL` the free low
nibble too; that it agrees rests on the model's choice that equal counts draw equal nibbles (log entry 10, marked
unsafe), not on the spec. -/
def Obligations.IdentifierSetSteersItsOwnOperationsOnly : Prop :=
  ∀ (i : Instr) (s : State) (m : Nat) (valid : List Nat), i.readsIdentifiers = false →
    Agree (fun t u => u = t.underIdentifiers m valid) (exec i s) (exec i (s.underIdentifiers m valid))

/-- A caller that keeps the exclusivity contracts breaks nothing another context relies on: a source that must stay
masked stays masked, a level that must stay stays, the table base that must stay stays. The contracts as a predicate
are the model's form (log entry 18). -/
def Obligations.KeptContractsProtectWhatOthersRelyOn : Prop :=
  ∀ (r : Reliance) (i : Instr) (s t : State), i.respects r = true → exec i s = .next t →
    (∀ id ∈ r.masked, s.enab id = 0 → t.enab id = 0) ∧
    (∀ id ∈ r.levels, (t.cfgByte id).toNat / 16 = (s.cfgByte id).toNat / 16) ∧
    (r.tableBase = true → t.mtvt = s.mtvt)

/-- Two handles with the same `HartBase` reach the same cells: after a command through one, the other reads what it
wrote, and keeps its own handle state. The system of instances is the model's form (log entry 16). -/
def Obligations.AliasingHandlesShareCellsNotHandleState : Prop :=
  ∀ (x y t : State) (c : Command) (rest : List Input), x.inputs = .command c :: rest → step x = .next t →
    y.cfg.base = x.cfg.base → y.resets = x.resets →
    ∃ y', System.stepThrough [x, y] 0 = .next [t, y'] ∧ y'.constructed = y.constructed ∧ y'.inputs = y.inputs ∧
      y'.gcfg = t.gcfg ∧ ∀ id : BitVec 10, y'.pend id = t.pend id ∧ y'.enab id = t.enab id ∧
        y'.cfgByte id = t.cfgByte id
end

