-- ==== Sys2Proof/Laws/Decode.lean ====
section
/-! SUPPORT. The header's three fields: laying them out and reading them back, and the masks of R51 as conditions
on them. -/

namespace Sys2Proof

/-- Each bit of a header laid out from its fields. -/
theorem headerOf_getLsbD (m : Bool) (op : BitVec 5) (id : BitVec 10) (i : Nat) :
    (headerOf m op id).getLsbD i =
      if i < 10 then id.getLsbD i else if i < 15 then op.getLsbD (i - 10) else (BitVec.ofBool m).getLsbD (i - 15) := by
  have h : (headerOf m op id).getLsbD i = (BitVec.ofBool m ++ op ++ id : BitVec (1 + 5 + 10)).getLsbD i := rfl
  rw [h, BitVec.getLsbD_append, BitVec.getLsbD_append]
  split
  · rfl
  · split <;> rename_i h1 h2
    · rw [if_pos (by omega)]
    · rw [if_neg (by omega), show i - 10 - 5 = i - 15 by omega]

@[simp] theorem Command.modeBit_headerOf (m : Bool) (op : BitVec 5) (id : BitVec 10) (a : Word) :
    (Command.mk (headerOf m op id) a).modeBit = m := by
  simp only [Command.modeBit, headerOf_getLsbD]
  cases m <;> rfl

@[simp] theorem Command.op_headerOf (m : Bool) (op : BitVec 5) (id : BitVec 10) (a : Word) :
    (Command.mk (headerOf m op id) a).op = op := by
  apply BitVec.eq_of_getLsbD_eq
  intro i hi
  rw [Command.op, BitVec.getLsbD_extractLsb', headerOf_getLsbD, if_neg (by omega), if_pos (by omega),
    Nat.add_sub_cancel_left]
  simp only [hi, decide_true, Bool.true_and]

@[simp] theorem Command.id_headerOf (m : Bool) (op : BitVec 5) (id : BitVec 10) (a : Word) :
    (Command.mk (headerOf m op id) a).id = id := by
  apply BitVec.eq_of_getLsbD_eq
  intro i hi
  rw [Command.id, BitVec.getLsbD_extractLsb', headerOf_getLsbD, if_pos (by omega), Nat.zero_add]
  simp only [hi, decide_true, Bool.true_and]

/-- A header is its three fields laid out: no bit is left over. -/
theorem Command.headerOf_fields (c : Command) : headerOf c.modeBit c.op c.id = c.hdr := by
  apply BitVec.eq_of_getLsbD_eq
  intro i hi
  rw [headerOf_getLsbD]
  simp only [Command.modeBit, Command.op, Command.id, BitVec.getLsbD_extractLsb']
  split
  · simp [*]
  · split
    · rw [show 10 + (i - 10) = i by omega]; simp; omega
    · have : i = 15 := by omega
      subst this; simp

theorem headerOf_injective {m n : Bool} {o p : BitVec 5} {i j : BitVec 10} (h : headerOf m o i = headerOf n p j) :
    m = n ∧ o = p ∧ i = j :=
  ⟨by rw [← Command.modeBit_headerOf m o i 0, h, Command.modeBit_headerOf],
   by rw [← Command.op_headerOf m o i 0, h, Command.op_headerOf],
   by rw [← Command.id_headerOf m o i 0, h, Command.id_headerOf]⟩

/-- A header with `m = 0` as the or of its parts, the way R61 to R69 write it. -/
theorem headerOf_eq_or (op : BitVec 5) (id : BitVec 10) :
    headerOf false op id = (op.setWidth 16 <<< 10) ||| id.setWidth 16 := by
  apply BitVec.eq_of_getLsbD_eq
  intro i hi
  rw [headerOf_getLsbD]
  simp only [BitVec.getLsbD_or, BitVec.getLsbD_shiftLeft, BitVec.getLsbD_setWidth]
  interval_cases i <;> simp

/-- Mask 0xFC00 keeps `m` and `op`. -/
theorem headerOf_and_opMask (m : Bool) (op : BitVec 5) (id : BitVec 10) :
    headerOf m op id &&& 0xFC00#16 = headerOf m op 0 := by
  apply BitVec.eq_of_getLsbD_eq
  intro i hi
  simp only [BitVec.getLsbD_and, headerOf_getLsbD]
  interval_cases i <;> simp

/-- Mask 0x7FFF drops `m`. -/
theorem headerOf_and_noMode (m : Bool) (op : BitVec 5) (id : BitVec 10) :
    headerOf m op id &&& 0x7FFF#16 = headerOf false op id := by
  apply BitVec.eq_of_getLsbD_eq
  intro i hi
  simp only [BitVec.getLsbD_and, headerOf_getLsbD]
  interval_cases i <;> simp

/-- Mask 0xFFFF keeps the header. -/
theorem headerOf_and_all (m : Bool) (op : BitVec 5) (id : BitVec 10) :
    headerOf m op id &&& 0xFFFF#16 = headerOf m op id := by
  rw [show (0xFFFF#16) = BitVec.allOnes 16 by decide, BitVec.and_allOnes]

/-- A row whose `id` is an operand matches the headers with `m = 0` and its `op`. -/
theorem OpcodeRow.matches_withId {n : String} {h : BitVec 16} {o op : BitVec 5} {m : Bool} {id : BitVec 10}
    (e : h = headerOf false o 0) :
    (OpcodeRow.mk n h 0xFC00).matches (headerOf m op id) = true ↔ m = false ∧ op = o := by
  subst e
  simp only [OpcodeRow.matches, decide_eq_true_eq]
  rw [show (0xFC00 : BitVec 16) = 0xFC00#16 from rfl, headerOf_and_opMask]
  exact ⟨fun h => ⟨(headerOf_injective h).1, (headerOf_injective h).2.1⟩, by rintro ⟨rfl, rfl⟩; rfl⟩

/-- A row with no operand in the header matches one header. -/
theorem OpcodeRow.matches_plain {n : String} {h : BitVec 16} {o op : BitVec 5} {m : Bool} {id : BitVec 10}
    (e : h = headerOf false o 0) :
    (OpcodeRow.mk n h 0xFFFF).matches (headerOf m op id) = true ↔ m = false ∧ op = o ∧ id = 0 := by
  subst e
  simp only [OpcodeRow.matches, decide_eq_true_eq]
  rw [show (0xFFFF : BitVec 16) = 0xFFFF#16 from rfl, headerOf_and_all]
  exact ⟨fun h => headerOf_injective h, by rintro ⟨rfl, rfl, rfl⟩; rfl⟩

/-- The row whose `m` is an operand matches the headers with its `op` and `id = 0`. -/
theorem OpcodeRow.matches_withMode {n : String} {h : BitVec 16} {o op : BitVec 5} {m : Bool} {id : BitVec 10}
    (e : h = headerOf false o 0) :
    (OpcodeRow.mk n h 0x7FFF).matches (headerOf m op id) = true ↔ op = o ∧ id = 0 := by
  subst e
  simp only [OpcodeRow.matches, decide_eq_true_eq]
  rw [show (0x7FFF : BitVec 16) = 0x7FFF#16 from rfl, headerOf_and_noMode]
  exact ⟨fun h => (headerOf_injective h).2, by rintro ⟨rfl, rfl⟩; rfl⟩

end Sys2Proof
end

