-- ==== Sys2Proof/Laws/State.lean ====
section
/-! SUPPORT. One lemma a field for each update of State, so that no proof unfolds a record. -/

namespace Sys2Proof.Machine

/-! `State.report` -/

@[simp] theorem State.report_cfg (s : State) (o : Output) (a : Access) : (s.report o a).cfg = s.cfg := rfl
@[simp] theorem State.report_constructed (s : State) (o : Output) (a : Access) : (s.report o a).constructed = s.constructed := rfl
@[simp] theorem State.report_mcause (s : State) (o : Output) (a : Access) : (s.report o a).mcause = s.mcause := rfl
@[simp] theorem State.report_mtvec (s : State) (o : Output) (a : Access) : (s.report o a).mtvec = s.mtvec := rfl
@[simp] theorem State.report_mtvt (s : State) (o : Output) (a : Access) : (s.report o a).mtvt = s.mtvt := rfl
@[simp] theorem State.report_mem (s : State) (o : Output) (a : Access) : (s.report o a).mem = s.mem := rfl
@[simp] theorem State.report_resets (s : State) (o : Output) (a : Access) : (s.report o a).resets = s.resets := rfl
@[simp] theorem State.report_draws (s : State) (o : Output) (a : Access) : (s.report o a).draws = s.draws := rfl
@[simp] theorem State.report_out (s : State) (o : Output) (a : Access) : (s.report o a).out = o := rfl
@[simp] theorem State.report_bus (s : State) (o : Output) (a : Access) : (s.report o a).bus = a := rfl
@[simp] theorem State.report_inputs (s : State) (o : Output) (a : Access) : (s.report o a).inputs = s.inputs := rfl

/-! `State.putByte` -/

@[simp] theorem State.putByte_cfg (s : State) (a : Nat) (v : Byte) : (s.putByte a v).cfg = s.cfg := rfl
@[simp] theorem State.putByte_constructed (s : State) (a : Nat) (v : Byte) : (s.putByte a v).constructed = s.constructed := rfl
@[simp] theorem State.putByte_mcause (s : State) (a : Nat) (v : Byte) : (s.putByte a v).mcause = s.mcause := rfl
@[simp] theorem State.putByte_mtvec (s : State) (a : Nat) (v : Byte) : (s.putByte a v).mtvec = s.mtvec := rfl
@[simp] theorem State.putByte_mtvt (s : State) (a : Nat) (v : Byte) : (s.putByte a v).mtvt = s.mtvt := rfl
@[simp] theorem State.putByte_mem (s : State) (a : Nat) (v : Byte) : (s.putByte a v).mem = s.mem.write a v := rfl
@[simp] theorem State.putByte_resets (s : State) (a : Nat) (v : Byte) : (s.putByte a v).resets = s.resets := rfl
@[simp] theorem State.putByte_draws (s : State) (a : Nat) (v : Byte) : (s.putByte a v).draws = s.draws := rfl
@[simp] theorem State.putByte_out (s : State) (a : Nat) (v : Byte) : (s.putByte a v).out = s.out := rfl
@[simp] theorem State.putByte_bus (s : State) (a : Nat) (v : Byte) : (s.putByte a v).bus = s.bus := rfl
@[simp] theorem State.putByte_inputs (s : State) (a : Nat) (v : Byte) : (s.putByte a v).inputs = s.inputs := rfl

/-! `State.drawn` -/

@[simp] theorem State.drawn_cfg (s : State) : s.drawn.cfg = s.cfg := rfl
@[simp] theorem State.drawn_constructed (s : State) : s.drawn.constructed = s.constructed := rfl
@[simp] theorem State.drawn_mcause (s : State) : s.drawn.mcause = s.mcause := rfl
@[simp] theorem State.drawn_mtvec (s : State) : s.drawn.mtvec = s.mtvec := rfl
@[simp] theorem State.drawn_mtvt (s : State) : s.drawn.mtvt = s.mtvt := rfl
@[simp] theorem State.drawn_mem (s : State) : s.drawn.mem = s.mem := rfl
@[simp] theorem State.drawn_resets (s : State) : s.drawn.resets = s.resets := rfl
@[simp] theorem State.drawn_draws (s : State) : s.drawn.draws = s.draws + 1 := rfl
@[simp] theorem State.drawn_out (s : State) : s.drawn.out = s.out := rfl
@[simp] theorem State.drawn_bus (s : State) : s.drawn.bus = s.bus := rfl
@[simp] theorem State.drawn_inputs (s : State) : s.drawn.inputs = s.inputs := rfl

/-! `State.doneQuiet` -/

@[simp] theorem State.doneQuiet_cfg (s : State) (res : Word) (ok : Bool) : (s.doneQuiet res ok).cfg = s.cfg := rfl
@[simp] theorem State.doneQuiet_constructed (s : State) (res : Word) (ok : Bool) : (s.doneQuiet res ok).constructed = s.constructed := rfl
@[simp] theorem State.doneQuiet_mcause (s : State) (res : Word) (ok : Bool) : (s.doneQuiet res ok).mcause = s.mcause := rfl
@[simp] theorem State.doneQuiet_mtvec (s : State) (res : Word) (ok : Bool) : (s.doneQuiet res ok).mtvec = s.mtvec := rfl
@[simp] theorem State.doneQuiet_mtvt (s : State) (res : Word) (ok : Bool) : (s.doneQuiet res ok).mtvt = s.mtvt := rfl
@[simp] theorem State.doneQuiet_mem (s : State) (res : Word) (ok : Bool) : (s.doneQuiet res ok).mem = s.mem := rfl
@[simp] theorem State.doneQuiet_resets (s : State) (res : Word) (ok : Bool) : (s.doneQuiet res ok).resets = s.resets := rfl
@[simp] theorem State.doneQuiet_draws (s : State) (res : Word) (ok : Bool) : (s.doneQuiet res ok).draws = s.draws := rfl
@[simp] theorem State.doneQuiet_out (s : State) (res : Word) (ok : Bool) : (s.doneQuiet res ok).out = .done res ok := rfl
@[simp] theorem State.doneQuiet_bus (s : State) (res : Word) (ok : Bool) : (s.doneQuiet res ok).bus = .none := rfl
@[simp] theorem State.doneQuiet_inputs (s : State) (res : Word) (ok : Bool) : (s.doneQuiet res ok).inputs = s.inputs := rfl

/-! `State.doneStore` -/

@[simp] theorem State.doneStore_cfg (s : State) (a : Nat) (v : Byte) : (s.doneStore a v).cfg = s.cfg := rfl
@[simp] theorem State.doneStore_constructed (s : State) (a : Nat) (v : Byte) : (s.doneStore a v).constructed = s.constructed := rfl
@[simp] theorem State.doneStore_mcause (s : State) (a : Nat) (v : Byte) : (s.doneStore a v).mcause = s.mcause := rfl
@[simp] theorem State.doneStore_mtvec (s : State) (a : Nat) (v : Byte) : (s.doneStore a v).mtvec = s.mtvec := rfl
@[simp] theorem State.doneStore_mtvt (s : State) (a : Nat) (v : Byte) : (s.doneStore a v).mtvt = s.mtvt := rfl
@[simp] theorem State.doneStore_mem (s : State) (a : Nat) (v : Byte) : (s.doneStore a v).mem = s.mem.write a v := rfl
@[simp] theorem State.doneStore_resets (s : State) (a : Nat) (v : Byte) : (s.doneStore a v).resets = s.resets := rfl
@[simp] theorem State.doneStore_draws (s : State) (a : Nat) (v : Byte) : (s.doneStore a v).draws = s.draws := rfl
@[simp] theorem State.doneStore_out (s : State) (a : Nat) (v : Byte) : (s.doneStore a v).out = .done 0 true := rfl
@[simp] theorem State.doneStore_bus (s : State) (a : Nat) (v : Byte) : (s.doneStore a v).bus = .memWrite a 1 (v.setWidth 128) := rfl
@[simp] theorem State.doneStore_inputs (s : State) (a : Nat) (v : Byte) : (s.doneStore a v).inputs = s.inputs := rfl

/-! `State.doneLoad` -/

@[simp] theorem State.doneLoad_cfg (s : State) (a : Nat) (res : Word) : (s.doneLoad a res).cfg = s.cfg := rfl
@[simp] theorem State.doneLoad_constructed (s : State) (a : Nat) (res : Word) : (s.doneLoad a res).constructed = s.constructed := rfl
@[simp] theorem State.doneLoad_mcause (s : State) (a : Nat) (res : Word) : (s.doneLoad a res).mcause = s.mcause := rfl
@[simp] theorem State.doneLoad_mtvec (s : State) (a : Nat) (res : Word) : (s.doneLoad a res).mtvec = s.mtvec := rfl
@[simp] theorem State.doneLoad_mtvt (s : State) (a : Nat) (res : Word) : (s.doneLoad a res).mtvt = s.mtvt := rfl
@[simp] theorem State.doneLoad_mem (s : State) (a : Nat) (res : Word) : (s.doneLoad a res).mem = s.mem := rfl
@[simp] theorem State.doneLoad_resets (s : State) (a : Nat) (res : Word) : (s.doneLoad a res).resets = s.resets := rfl
@[simp] theorem State.doneLoad_draws (s : State) (a : Nat) (res : Word) : (s.doneLoad a res).draws = s.draws := rfl
@[simp] theorem State.doneLoad_out (s : State) (a : Nat) (res : Word) : (s.doneLoad a res).out = .done res true := rfl
@[simp] theorem State.doneLoad_bus (s : State) (a : Nat) (res : Word) : (s.doneLoad a res).bus = .memRead a 1 := rfl
@[simp] theorem State.doneLoad_inputs (s : State) (a : Nat) (res : Word) : (s.doneLoad a res).inputs = s.inputs := rfl

/-! `State.doneCsrRead` -/

@[simp] theorem State.doneCsrRead_cfg (s : State) (r : Csr) (res : Word) (ok : Bool) : (s.doneCsrRead r res ok).cfg = s.cfg := rfl
@[simp] theorem State.doneCsrRead_constructed (s : State) (r : Csr) (res : Word) (ok : Bool) : (s.doneCsrRead r res ok).constructed = s.constructed := rfl
@[simp] theorem State.doneCsrRead_mcause (s : State) (r : Csr) (res : Word) (ok : Bool) : (s.doneCsrRead r res ok).mcause = s.mcause := rfl
@[simp] theorem State.doneCsrRead_mtvec (s : State) (r : Csr) (res : Word) (ok : Bool) : (s.doneCsrRead r res ok).mtvec = s.mtvec := rfl
@[simp] theorem State.doneCsrRead_mtvt (s : State) (r : Csr) (res : Word) (ok : Bool) : (s.doneCsrRead r res ok).mtvt = s.mtvt := rfl
@[simp] theorem State.doneCsrRead_mem (s : State) (r : Csr) (res : Word) (ok : Bool) : (s.doneCsrRead r res ok).mem = s.mem := rfl
@[simp] theorem State.doneCsrRead_resets (s : State) (r : Csr) (res : Word) (ok : Bool) : (s.doneCsrRead r res ok).resets = s.resets := rfl
@[simp] theorem State.doneCsrRead_draws (s : State) (r : Csr) (res : Word) (ok : Bool) : (s.doneCsrRead r res ok).draws = s.draws := rfl
@[simp] theorem State.doneCsrRead_out (s : State) (r : Csr) (res : Word) (ok : Bool) : (s.doneCsrRead r res ok).out = .done res ok := rfl
@[simp] theorem State.doneCsrRead_bus (s : State) (r : Csr) (res : Word) (ok : Bool) : (s.doneCsrRead r res ok).bus = .csrRead r.number := rfl
@[simp] theorem State.doneCsrRead_inputs (s : State) (r : Csr) (res : Word) (ok : Bool) : (s.doneCsrRead r res ok).inputs = s.inputs := rfl

/-! `State.idle` -/

@[simp] theorem State.idle_cfg (s : State) : s.idle.cfg = s.cfg := rfl
@[simp] theorem State.idle_constructed (s : State) : s.idle.constructed = s.constructed := rfl
@[simp] theorem State.idle_mcause (s : State) : s.idle.mcause = s.mcause := rfl
@[simp] theorem State.idle_mtvec (s : State) : s.idle.mtvec = s.mtvec := rfl
@[simp] theorem State.idle_mtvt (s : State) : s.idle.mtvt = s.mtvt := rfl
@[simp] theorem State.idle_mem (s : State) : s.idle.mem = s.mem := rfl
@[simp] theorem State.idle_resets (s : State) : s.idle.resets = s.resets := rfl
@[simp] theorem State.idle_draws (s : State) : s.idle.draws = s.draws := rfl
@[simp] theorem State.idle_out (s : State) : s.idle.out = .none := rfl
@[simp] theorem State.idle_bus (s : State) : s.idle.bus = .none := rfl
@[simp] theorem State.idle_inputs (s : State) : s.idle.inputs = s.inputs := rfl

/-! `State.externalReset` -/

@[simp] theorem State.externalReset_cfg (s : State) : s.externalReset.cfg = s.cfg := rfl
@[simp] theorem State.externalReset_constructed (s : State) : s.externalReset.constructed = false := rfl
@[simp] theorem State.externalReset_mcause (s : State) : s.externalReset.mcause = s.cfg.xlen.fit (Config.resetCsr (s.resets + 1) 0x342) := rfl
@[simp] theorem State.externalReset_mtvec (s : State) : s.externalReset.mtvec = s.cfg.xlen.fit (Config.resetCsr (s.resets + 1) 0x305) := rfl
@[simp] theorem State.externalReset_mtvt (s : State) : s.externalReset.mtvt = s.cfg.xlen.fit (Config.resetCsr (s.resets + 1) 0x307) := rfl
@[simp] theorem State.externalReset_mem (s : State) : s.externalReset.mem = [] := rfl
@[simp] theorem State.externalReset_resets (s : State) : s.externalReset.resets = s.resets + 1 := rfl
@[simp] theorem State.externalReset_draws (s : State) : s.externalReset.draws = s.draws := rfl
@[simp] theorem State.externalReset_out (s : State) : s.externalReset.out = .none := rfl
@[simp] theorem State.externalReset_bus (s : State) : s.externalReset.bus = .none := rfl
@[simp] theorem State.externalReset_inputs (s : State) : s.externalReset.inputs = s.inputs := rfl

/-! `State.putCsr` -/

@[simp] theorem State.putCsr_cfg (s : State) (r : Csr) (v : Word) : (s.putCsr r v).cfg = s.cfg := by cases r <;> rfl
@[simp] theorem State.putCsr_constructed (s : State) (r : Csr) (v : Word) : (s.putCsr r v).constructed = s.constructed := by cases r <;> rfl
@[simp] theorem State.putCsr_mem (s : State) (r : Csr) (v : Word) : (s.putCsr r v).mem = s.mem := by cases r <;> rfl
@[simp] theorem State.putCsr_resets (s : State) (r : Csr) (v : Word) : (s.putCsr r v).resets = s.resets := by cases r <;> rfl
@[simp] theorem State.putCsr_draws (s : State) (r : Csr) (v : Word) : (s.putCsr r v).draws = s.draws := by cases r <;> rfl
@[simp] theorem State.putCsr_out (s : State) (r : Csr) (v : Word) : (s.putCsr r v).out = s.out := by cases r <;> rfl
@[simp] theorem State.putCsr_bus (s : State) (r : Csr) (v : Word) : (s.putCsr r v).bus = s.bus := by cases r <;> rfl
@[simp] theorem State.putCsr_inputs (s : State) (r : Csr) (v : Word) : (s.putCsr r v).inputs = s.inputs := by cases r <;> rfl
@[simp] theorem State.putCsr_mcause (s : State) (r : Csr) (v : Word) :
    (s.putCsr r v).mcause = if r = .mcause then s.cfg.xlen.fit v else s.mcause := by cases r <;> rfl
@[simp] theorem State.putCsr_mtvec (s : State) (r : Csr) (v : Word) :
    (s.putCsr r v).mtvec = if r = .mtvec then s.cfg.xlen.fit v else s.mtvec := by cases r <;> rfl
@[simp] theorem State.putCsr_mtvt (s : State) (r : Csr) (v : Word) :
    (s.putCsr r v).mtvt = if r = .mtvt then s.cfg.xlen.fit v else s.mtvt := by cases r <;> rfl

/-! `State.doneCsrWrite` -/

@[simp] theorem State.doneCsrWrite_cfg (s : State) (r : Csr) (v : Word) : (s.doneCsrWrite r v).cfg = s.cfg := by cases r <;> rfl
@[simp] theorem State.doneCsrWrite_constructed (s : State) (r : Csr) (v : Word) : (s.doneCsrWrite r v).constructed = s.constructed := by cases r <;> rfl
@[simp] theorem State.doneCsrWrite_mem (s : State) (r : Csr) (v : Word) : (s.doneCsrWrite r v).mem = s.mem := by cases r <;> rfl
@[simp] theorem State.doneCsrWrite_resets (s : State) (r : Csr) (v : Word) : (s.doneCsrWrite r v).resets = s.resets := by cases r <;> rfl
@[simp] theorem State.doneCsrWrite_draws (s : State) (r : Csr) (v : Word) : (s.doneCsrWrite r v).draws = s.draws := by cases r <;> rfl
@[simp] theorem State.doneCsrWrite_out (s : State) (r : Csr) (v : Word) : (s.doneCsrWrite r v).out = .done 0 true := by cases r <;> rfl
@[simp] theorem State.doneCsrWrite_bus (s : State) (r : Csr) (v : Word) : (s.doneCsrWrite r v).bus = .csrWrite r.number v := by cases r <;> rfl
@[simp] theorem State.doneCsrWrite_inputs (s : State) (r : Csr) (v : Word) : (s.doneCsrWrite r v).inputs = s.inputs := by cases r <;> rfl
@[simp] theorem State.doneCsrWrite_mcause (s : State) (r : Csr) (v : Word) :
    (s.doneCsrWrite r v).mcause = if r = .mcause then s.cfg.xlen.fit v else s.mcause := by cases r <;> rfl
@[simp] theorem State.doneCsrWrite_mtvec (s : State) (r : Csr) (v : Word) :
    (s.doneCsrWrite r v).mtvec = if r = .mtvec then s.cfg.xlen.fit v else s.mtvec := by cases r <;> rfl
@[simp] theorem State.doneCsrWrite_mtvt (s : State) (r : Csr) (v : Word) :
    (s.doneCsrWrite r v).mtvt = if r = .mtvt then s.cfg.xlen.fit v else s.mtvt := by cases r <;> rfl

/-! Reading a control register -/

@[simp] theorem State.csr_mcause (s : State) : s.csr .mcause = s.mcause := rfl
@[simp] theorem State.csr_mtvec (s : State) : s.csr .mtvec = s.mtvec := rfl
@[simp] theorem State.csr_mtvt (s : State) : s.csr .mtvt = s.mtvt := rfl

end Sys2Proof.Machine
end

