-- ==== Sys2Proof/Laws/Memory.lean ====
section
/-! SUPPORT. Memory: read after write, the canonical form, and bytes read through a state. -/

namespace Sys2Proof.Machine

@[simp] theorem Memory.read_nil (a : Nat) : Memory.read [] a = none := rfl

/-- A read after a write to the same address gives the value written. -/
@[simp] theorem Memory.read_write_same (m : Memory) (a : Nat) (v : Byte) : (Memory.write m a v).read a = some v := by
  induction m with
  | nil => simp [Memory.write, Memory.read]
  | cons c rest ih =>
    obtain ⟨b, w⟩ := c
    simp only [Memory.write]
    split
    · simp [Memory.read]
    · split
      · simp [Memory.read]
      · simp [Memory.read, *]

/-- A write leaves every other address alone. -/
theorem Memory.read_write_other (m : Memory) {a c : Nat} (v : Byte) (h : c ≠ a) :
    (Memory.write m a v).read c = m.read c := by
  induction m with
  | nil => simp [Memory.write, Memory.read, h]
  | cons d rest ih =>
    obtain ⟨b, w⟩ := d
    simp only [Memory.write]
    split
    · simp [Memory.read, h]
    · split
      · subst_vars; simp [Memory.read, h]
      · simp [Memory.read, ih]

/-- The cells after a write are the old ones and the one written. -/
theorem Memory.mem_write {m : Memory} {a : Nat} {v : Byte} {c : Host.Cell} (h : c ∈ m.write a v) :
    c = (a, v) ∨ c ∈ m := by
  induction m with
  | nil => simpa [Memory.write] using h
  | cons d rest ih =>
    obtain ⟨b, w⟩ := d
    simp only [Memory.write] at h
    split at h
    · simpa using h
    · split at h
      · subst_vars
        simp only [List.mem_cons] at h ⊢
        tauto
      · simp only [List.mem_cons] at h ⊢
        rcases h with h | h
        · exact .inr (.inl h)
        · rcases ih h with h | h
          · exact .inl h
          · exact .inr (.inr h)

theorem Memory.wf_nil : Memory.wf [] = true := by simp [Memory.wf]

/-- Every write keeps the canonical form. -/
theorem Memory.wf_write {m : Memory} (a : Nat) (v : Byte) (h : m.wf = true) : (m.write a v).wf = true := by
  simp only [Memory.wf, decide_eq_true_eq] at h ⊢
  induction m with
  | nil => simp [Memory.write]
  | cons d rest ih =>
    obtain ⟨b, w⟩ := d
    rw [List.pairwise_cons] at h
    simp only [Memory.write]
    split
    · rename_i hab
      rw [List.pairwise_cons, List.pairwise_cons]
      refine ⟨fun c hc => ?_, h⟩
      rcases List.mem_cons.mp hc with hc | hc
      · subst hc; exact hab
      · exact lt_trans hab (h.1 c hc)
    · split
      · subst_vars; rw [List.pairwise_cons]; exact h
      · rename_i h1 h2
        rw [List.pairwise_cons]
        refine ⟨fun c hc => ?_, ih h.2⟩
        rcases Memory.mem_write hc with hc | hc
        · subst hc; simp only; omega
        · exact h.1 c hc

/-! ## Bytes through a state -/

@[simp] theorem State.byteAt_report (s : State) (o : Output) (x : Access) (a : Nat) :
    (s.report o x).byteAt a = s.byteAt a := rfl

@[simp] theorem State.byteAt_drawn (s : State) (a : Nat) : s.drawn.byteAt a = s.byteAt a := rfl

@[simp] theorem State.byteAt_putCsr (s : State) (r : Csr) (v : Word) (a : Nat) :
    (s.putCsr r v).byteAt a = s.byteAt a := by cases r <;> rfl

@[simp] theorem State.byteAt_putByte_same (s : State) (a : Nat) (v : Byte) : (s.putByte a v).byteAt a = v := by
  simp [State.byteAt]

theorem State.byteAt_putByte_other (s : State) {a b : Nat} (v : Byte) (h : b ≠ a) :
    (s.putByte a v).byteAt b = s.byteAt b := by
  simp [State.byteAt, State.unlisted, Memory.read_write_other _ _ h]

theorem State.byteAt_putByte (s : State) (a b : Nat) (v : Byte) :
    (s.putByte a v).byteAt b = if b = a then v else s.byteAt b := by
  split
  · subst_vars; simp
  · exact s.byteAt_putByte_other v ‹_›

@[simp] theorem State.byteAt_doneQuiet (s : State) (r : Word) (ok : Bool) (a : Nat) :
    (s.doneQuiet r ok).byteAt a = s.byteAt a := rfl

@[simp] theorem State.byteAt_doneLoad (s : State) (x : Nat) (r : Word) (a : Nat) :
    (s.doneLoad x r).byteAt a = s.byteAt a := rfl

@[simp] theorem State.byteAt_doneCsrRead (s : State) (c : Csr) (r : Word) (ok : Bool) (a : Nat) :
    (s.doneCsrRead c r ok).byteAt a = s.byteAt a := rfl

@[simp] theorem State.byteAt_doneCsrWrite (s : State) (c : Csr) (v : Word) (a : Nat) :
    (s.doneCsrWrite c v).byteAt a = s.byteAt a := by cases c <;> rfl

/-- A 1-byte store changes the byte stored to and no other. -/
theorem State.byteAt_doneStore (s : State) (a b : Nat) (v : Byte) :
    (s.doneStore a v).byteAt b = if b = a then v else s.byteAt b :=
  s.byteAt_putByte a b v

/-! ## Wide accesses -/

theorem State.bytesAt_congr {s t : State} {a n : Nat} (h : ∀ b, a ≤ b → b < a + n → t.byteAt b = s.byteAt b) :
    t.bytesAt a n = s.bytesAt a n := by
  induction n generalizing a with
  | zero => rfl
  | succ n ih =>
    simp only [State.bytesAt]
    rw [h a (by omega) (by omega), ih fun b hb hb' => h b (by omega) (by omega)]

/-- `n` bytes make a value below `256^n`. -/
theorem State.bytesAt_lt (s : State) (a n : Nat) : s.bytesAt a n < 256 ^ n := by
  induction n generalizing a with
  | zero => simp [State.bytesAt]
  | succ n ih =>
    have := ih (a + 1)
    have := (s.byteAt a).isLt
    simp only [State.bytesAt, pow_succ]
    omega

/-- Bytes outside a wide store read as before. -/
theorem State.byteAt_putBytes_outside (s : State) {a n b : Nat} (v : Nat) (h : b < a ∨ a + n ≤ b) :
    (s.putBytes a n v).byteAt b = s.byteAt b := by
  induction n generalizing a v s with
  | zero => rfl
  | succ n ih =>
    simp only [State.putBytes]
    rw [ih _ _ (by omega), s.byteAt_putByte_other _ (by omega)]

/-- A wide read after a wide store of the same bytes gives the value stored. -/
theorem State.bytesAt_putBytes (s : State) (a n v : Nat) : (s.putBytes a n v).bytesAt a n = v % 256 ^ n := by
  induction n generalizing a v s with
  | zero => simp [State.bytesAt, Nat.mod_one]
  | succ n ih =>
    simp only [State.bytesAt, State.putBytes]
    rw [ih, State.byteAt_putBytes_outside _ _ (Or.inl (by omega)), State.byteAt_putByte_same, BitVec.toNat_ofNat]
    rw [show (256 : Nat) ^ (n + 1) = 256 * 256 ^ n by ring, Nat.mod_mul]

/-- A wide store puts byte `k` of the value at `a + k`: little-endian (R41 of 20_memory.md). -/
theorem State.byteAt_putBytes (s : State) {a n k : Nat} (v : Nat) (h : k < n) :
    (s.putBytes a n v).byteAt (a + k) = BitVec.ofNat 8 (v / 256 ^ k) := by
  induction n generalizing a v s k with
  | zero => omega
  | succ n ih =>
    simp only [State.putBytes]
    cases k with
    | zero => rw [State.byteAt_putBytes_outside _ _ (Or.inl (by omega))]; simp
    | succ k =>
      rw [show a + (k + 1) = a + 1 + k by omega, ih _ _ (by omega), pow_succ, Nat.mul_comm, Nat.div_div_eq_div_mul]

/-- A wide store writes the memory only. -/
theorem State.putBytes_eq (s : State) (a n v : Nat) :
    s.putBytes a n v = { s with mem := (s.putBytes a n v).mem } := by
  induction n generalizing a v s with
  | zero => rfl
  | succ n ih =>
    simp only [State.putBytes]
    rw [ih]
    rfl

@[simp] theorem State.putBytes_cfg (s : State) (a n v : Nat) : (s.putBytes a n v).cfg = s.cfg := by
  rw [State.putBytes_eq]
@[simp] theorem State.putBytes_constructed (s : State) (a n v : Nat) : (s.putBytes a n v).constructed = s.constructed := by
  rw [State.putBytes_eq]
@[simp] theorem State.putBytes_mcause (s : State) (a n v : Nat) : (s.putBytes a n v).mcause = s.mcause := by
  rw [State.putBytes_eq]
@[simp] theorem State.putBytes_mtvec (s : State) (a n v : Nat) : (s.putBytes a n v).mtvec = s.mtvec := by
  rw [State.putBytes_eq]
@[simp] theorem State.putBytes_mtvt (s : State) (a n v : Nat) : (s.putBytes a n v).mtvt = s.mtvt := by
  rw [State.putBytes_eq]
@[simp] theorem State.putBytes_resets (s : State) (a n v : Nat) : (s.putBytes a n v).resets = s.resets := by
  rw [State.putBytes_eq]
@[simp] theorem State.putBytes_draws (s : State) (a n v : Nat) : (s.putBytes a n v).draws = s.draws := by
  rw [State.putBytes_eq]
@[simp] theorem State.putBytes_out (s : State) (a n v : Nat) : (s.putBytes a n v).out = s.out := by
  rw [State.putBytes_eq]
@[simp] theorem State.putBytes_bus (s : State) (a n v : Nat) : (s.putBytes a n v).bus = s.bus := by
  rw [State.putBytes_eq]
@[simp] theorem State.putBytes_inputs (s : State) (a n v : Nat) : (s.putBytes a n v).inputs = s.inputs := by
  rw [State.putBytes_eq]

theorem State.wf_putBytes (s : State) (a n v : Nat) (h : s.mem.wf = true) : (s.putBytes a n v).mem.wf = true := by
  induction n generalizing a v s with
  | zero => exact h
  | succ n ih => exact ih _ _ _ (Memory.wf_write _ _ h)

/-- The cells after a wide store are old ones or among the bytes stored to. -/
theorem State.mem_putBytes {s : State} {a n v : Nat} {c : Host.Cell} (h : c ∈ (s.putBytes a n v).mem) :
    (a ≤ c.1 ∧ c.1 < a + n) ∨ c ∈ s.mem := by
  induction n generalizing a v s with
  | zero => exact .inr h
  | succ n ih =>
    rcases ih h with h | h
    · exact .inl ⟨by omega, by omega⟩
    · rcases Memory.mem_write h with h | h
      · subst h; exact .inl ⟨by simp, by simp⟩
      · exact .inr h

/-- The memory at reset is in canonical form. -/
theorem State.reset_mem_wf : State.reset.mem.wf = true := Memory.wf_nil

end Sys2Proof.Machine
end

