-- ==== Sys2Proof/Laws/Operands.lean ====
section
/-! SUPPORT. What each operand form and pure decode function computes, as arithmetic. -/

namespace Sys2Proof

theorem Xlen.bits_le (x : Xlen) : x.bits ≤ 128 := by cases x <;> decide

theorem Xlen.bits_ge (x : Xlen) : 32 ≤ x.bits := by cases x <;> decide

theorem Xlen.pow_le (x : Xlen) : 2 ^ x.bits ≤ 2 ^ 128 := Nat.pow_le_pow_right (by decide) x.bits_le

theorem Xlen.pow_ge (x : Xlen) : 2 ^ 32 ≤ 2 ^ x.bits := Nat.pow_le_pow_right (by decide) x.bits_ge

/-- `2^XLEN` is twice `2^(XLEN-1)`. -/
theorem Xlen.pow_eq (x : Xlen) : 2 ^ x.bits = 2 * 2 ^ (x.bits - 1) := by cases x <;> decide

@[simp] theorem Xlen.toNat_fit (x : Xlen) (w : Word) : (x.fit w).toNat = w.toNat % 2 ^ x.bits := by
  rw [Xlen.fit, BitVec.toNat_ofNat]
  exact Nat.mod_eq_of_lt (lt_of_lt_of_le (Nat.mod_lt _ (by positivity)) x.pow_le)

/-- Cutting to the width gives a value of the width. -/
theorem Xlen.fit_lt (x : Xlen) (w : Word) : (x.fit w).toNat < 2 ^ x.bits := by
  rw [Xlen.toNat_fit]; exact Nat.mod_lt _ (by positivity)

/-- A value of the width is kept. -/
theorem Xlen.fit_of_lt {x : Xlen} {w : Word} (h : w.toNat < 2 ^ x.bits) : x.fit w = w := by
  apply BitVec.eq_of_toNat_eq
  rw [Xlen.toNat_fit, Nat.mod_eq_of_lt h]

theorem boolWord_toNat (b : Bool) : (boolWord b).toNat = b.toNat := by cases b <;> rfl

theorem boolWord_nonzeroByte (b : Byte) : boolWord (nonzeroByte b) = if b = 0 then 0 else 1 := by
  unfold boolWord nonzeroByte
  by_cases h : b = 0 <;> simp [h]

/-- The level read back is the byte shifted right by 4 (R69). -/
theorem levelOf_toNat (b : Byte) : (levelOf b).toNat = b.toNat / 16 := by
  simp only [levelOf, BitVec.extractLsb'_toNat, Nat.shiftRight_eq_div_pow]
  have := b.isLt
  omega

/-- The level read from the byte `SET_LEVEL` writes is the level written, whatever the low half. -/
theorem levelOf_levelByte (l low : BitVec 4) : levelOf (levelByte l low) = l := by
  apply BitVec.eq_of_toNat_eq
  rw [levelOf_toNat, levelByte, BitVec.toNat_append, Nat.shiftLeft_eq, ← Nat.shiftLeft_eq,
    ← Nat.shiftLeft_add_eq_or_of_lt low.isLt, Nat.shiftLeft_eq]
  have := low.isLt
  omega

theorem levelOperand_toNat (w : Word) : (levelOperand w).toNat = w.toNat % 16 := by
  simp [levelOperand, BitVec.extractLsb'_toNat]

theorem causeCode_toNat (x : Xlen) (w : Word) : (causeCode x w).toNat = w.toNat % 2 ^ (x.bits - 1) := by
  rw [causeCode, BitVec.toNat_and, BitVec.toNat_ofNat, Nat.mod_eq_of_lt (a := 2 ^ (x.bits - 1) - 1),
    Nat.and_two_pow_sub_one_eq_mod]
  have := x.pow_eq
  have := x.pow_le
  omega

/-- The kind bit of a native word says whether the word reaches `2^(XLEN-1)` (R78). -/
theorem causeIsInterrupt_eq {x : Xlen} {w : Word} (h : w.toNat < 2 ^ x.bits) :
    causeIsInterrupt x w = decide (2 ^ (x.bits - 1) ≤ w.toNat) := by
  have hp := x.pow_eq
  rw [causeIsInterrupt, BitVec.getLsbD, Nat.testBit_eq_decide_div_mod_eq]
  congr 1
  apply propext
  constructor
  · intro h1
    by_contra h2
    rw [Nat.div_eq_of_lt (by omega)] at h1
    simp at h1
  · intro h1
    rw [show w.toNat / 2 ^ (x.bits - 1) = 1 from Nat.div_eq_of_lt_le (by omega) (by omega)]

theorem causeMpie_toNat (w : Word) : (causeMpie w).toNat = w.toNat / 2 ^ 27 % 2 := by
  simp [causeMpie, BitVec.getLsbD, Nat.testBit_eq_decide_div_mod_eq]
  rcases Nat.mod_two_eq_zero_or_one (w.toNat / 134217728) with h | h <;> simp [h]

theorem causeMpp_toNat (w : Word) : (causeMpp w).toNat = w.toNat / 2 ^ 28 % 4 := by
  simp [causeMpp, BitVec.extractLsb'_toNat, Nat.shiftRight_eq_div_pow]

theorem causeMinhv_toNat (w : Word) : (causeMinhv w).toNat = w.toNat / 2 ^ 30 % 2 := by
  simp [causeMinhv, BitVec.getLsbD, Nat.testBit_eq_decide_div_mod_eq]
  rcases Nat.mod_two_eq_zero_or_one (w.toNat / 1073741824) with h | h <;> simp [h]

/-- Clearing the low `k` bits of a word rounds it down to a multiple of `2^k`. -/
theorem toNat_and_not_low (w : Word) (k : Nat) :
    (w &&& ~~~(BitVec.ofNat 128 (2 ^ k - 1))).toNat = 2 ^ k * (w.toNat / 2 ^ k) := by
  have e : w &&& ~~~(BitVec.ofNat 128 (2 ^ k - 1)) = (w >>> k) <<< k := by
    apply BitVec.eq_of_getLsbD_eq
    intro i hi
    simp only [BitVec.getLsbD_and, BitVec.getLsbD_not, BitVec.getLsbD_ofNat, Nat.testBit_two_pow_sub_one,
      BitVec.getLsbD_shiftLeft, BitVec.getLsbD_ushiftRight]
    by_cases h : i < k
    · simp [h, hi]
    · simp [h, hi, show k + (i - k) = i by omega]
  have h2 : 2 ^ k * (w.toNat / 2 ^ k) ≤ w.toNat := Nat.mul_div_le _ _
  rw [e, BitVec.toNat_shiftLeft, BitVec.toNat_ushiftRight, Nat.shiftRight_eq_div_pow, Nat.shiftLeft_eq,
    Nat.mul_comm, Nat.mod_eq_of_lt (lt_of_le_of_lt h2 w.isLt)]

theorem vecAddress_toNat (w : Word) : (vecAddress w).toNat = 4 * (w.toNat / 4) := toNat_and_not_low w 2

theorem tableAddress_toNat (w : Word) : (tableAddress w).toNat = 64 * (w.toNat / 64) :=
  toNat_and_not_low w 6

theorem tablePack_toNat (w : Word) : (tablePack w).toNat = 64 * (w.toNat / 64) := toNat_and_not_low w 6

theorem vecModeCode_toNat (w : Word) : (vecModeCode w).toNat = w.toNat % 4 := by
  simp [vecModeCode, BitVec.extractLsb'_toNat]

/-- The sum `MTVEC_WRITE` stores, when it does not reach `2^XLEN`, is stored exactly. -/
theorem vecPack_toNat {x : Xlen} {a : Word} {m : TrapMode} (h : vecPack a m < 2 ^ x.bits) :
    (BitVec.ofNat 128 (vecPack a m)).toNat = a.toNat + m.bit.toNat := by
  rw [BitVec.toNat_ofNat, Nat.mod_eq_of_lt (lt_of_lt_of_le h x.pow_le)]
  rfl

/-- The extended table names only codes that the baseline table names, by the same tags. -/
theorem intTagExtended_of_known {c : Nat} (h : intTagExtended c ≠ .unknown) : intTagExtended c = intTagBaseline c := by
  unfold intTagExtended at h ⊢
  unfold intTagBaseline
  split <;> simp_all

end Sys2Proof
end

