-- ==== Sys2Proof/Laws/Exec.lean ====
section
/-! SUPPORT. What the shared operations and `exec` can do, said once. -/

namespace Sys2Proof.Machine

/-! ## What the ways of ending a step leave alone -/

/-- Reporting changes the outputs only. -/
theorem State.onlyReports_report (s : State) (o : Output) (x : Access) : s.OnlyReports (s.report o x) :=
  ⟨fun _ => rfl, ⟨rfl, rfl, rfl⟩, ⟨rfl, rfl, rfl⟩, rfl, rfl⟩

/-- A 1-byte store changes that byte and the outputs only. -/
theorem State.onlyStores_doneStore (s : State) (a : Nat) (v : Byte) : s.OnlyStores (s.doneStore a v) a 1 :=
  ⟨fun b hb => by rw [State.byteAt_doneStore, if_neg (by omega)], ⟨rfl, rfl, rfl⟩, ⟨rfl, rfl, rfl⟩, rfl, rfl⟩

/-- A wide store changes its bytes and the outputs only. -/
theorem State.onlyStores_putBytes (s : State) (a n v : Nat) (o : Output) (x : Access) :
    s.OnlyStores ((s.putBytes a n v).report o x) a n :=
  ⟨fun b hb => s.byteAt_putBytes_outside v hb, by simp [State.SameCsrs], by simp [State.SameSetting], by simp, by simp⟩

/-- A register write leaves memory alone. -/
theorem State.sameMemory_doneCsrWrite (s : State) (r : Csr) (v : Word) : s.SameMemory (s.doneCsrWrite r v) :=
  fun _ => State.byteAt_doneCsrWrite ..

@[simp] theorem State.byteAt_doneStore_same (s : State) (a : Nat) (v : Byte) : (s.doneStore a v).byteAt a = v := by
  rw [State.byteAt_doneStore, if_pos rfl]

/-- A 1-byte store in the hart-local block is one byte written. -/
theorem State.wroteOneByte_doneStore (s : State) {a : Nat} (v : Byte) (h : s.cfg.inHartLocal a = true) :
    s.WroteOneByte (s.doneStore a v) :=
  ⟨a, by simp, h, (s.onlyStores_doneStore a v).1, ⟨rfl, rfl, rfl⟩, ⟨rfl, rfl, rfl⟩⟩

/-- A 1-byte load in the hart-local block is one byte read. -/
theorem State.readOneByte_doneLoad (s : State) {a : Nat} (res : Word) (h : s.cfg.inHartLocal a = true) :
    s.ReadOneByte (s.doneLoad a res) :=
  ⟨a, rfl, h, s.onlyReports_report _ _⟩

/-- A register write of a native word is that one access, and changes no other register. -/
theorem State.accessed_doneCsrWrite (s : State) (r : Csr) {v : Word} (h : s.fits v) :
    s.Accessed (s.doneCsrWrite r v) (.csrWrite r) := by
  have e : s.cfg.xlen.fit v = v := Xlen.fit_of_lt h
  cases r <;>
    exact ⟨congrArg (Access.csrWrite _) e.symm, s.sameMemory_doneCsrWrite _ v, ⟨rfl, rfl, rfl⟩, rfl, rfl,
      fun q hq => by cases q <;> first | rfl | exact absurd rfl hq⟩

/-! ## The shared operations -/

theorem State.throughHandle_next {s t u : State} : s.throughHandle t = .next u ↔ s.constructed = true ∧ u = t := by
  cases hc : s.constructed <;> simp [State.throughHandle, hc]
  exact eq_comm

theorem State.throughHandle_of_constructed {s : State} (h : s.constructed = true) (t : State) :
    s.throughHandle t = .next t := by
  simp [State.throughHandle, h]

theorem State.throughHandle_of_not_constructed {s : State} (h : s.constructed = false) (t : State) :
    s.throughHandle t = .refused .notConstructed := by
  simp [State.throughHandle, h]

theorem State.inExtended_next {s t u : State} : s.inExtended t = .next u ↔ s.cfg.extMode = true ∧ u = t := by
  cases hc : s.cfg.extMode <;> simp [State.inExtended, hc]
  exact eq_comm

theorem State.inExtended_of_ext {s : State} (h : s.cfg.extMode = true) (t : State) : s.inExtended t = .next t := by
  simp [State.inExtended, h]

theorem State.inExtended_of_base {s : State} (h : s.cfg.extMode = false) (t : State) :
    s.inExtended t = .refused .absentInConfiguration := by
  simp [State.inExtended, h]

/-- A raw read that completes was admitted, and only reports. -/
theorem State.rawRead_next {s t : State} {a n : Nat} : s.rawRead a n = .next t ↔
    s.cfg.admits a n = true ∧ t = s.report (.data (BitVec.ofNat 128 (s.bytesAt a n))) (.memRead a n) := by
  cases hc : s.cfg.admits a n <;> simp [State.rawRead, hc]
  exact eq_comm

/-- A raw write that completes was admitted, and stores its bytes. -/
theorem State.rawWrite_next {s t : State} {a n : Nat} {v : Word} : s.rawWrite a n v = .next t ↔
    s.cfg.admits a n = true ∧ t = (s.putBytes a n v.toNat).report .none (.memWrite a n v) := by
  cases hc : s.cfg.admits a n <;> simp [State.rawWrite, hc]
  exact eq_comm

theorem State.rawCsrRead_next {s t : State} {num : BitVec 12} : s.rawCsrRead num = .next t ↔
    ∃ r, csrOfNumber num = some r ∧ t = s.report (.data (s.csr r)) (.csrRead num) := by
  cases hc : csrOfNumber num <;> simp [State.rawCsrRead, hc]
  exact eq_comm

theorem State.rawCsrWrite_next {s t : State} {num : BitVec 12} {v : Word} : s.rawCsrWrite num v = .next t ↔
    ∃ r, csrOfNumber num = some r ∧ t = (s.putCsr r v).report .none (.csrWrite num v) := by
  cases hc : csrOfNumber num <;> simp [State.rawCsrWrite, hc]
  exact eq_comm

theorem execIdNumber_of_source {id : BitVec 10} {s : State} (h : s.cfg.isSource id.toNat = true) :
    execIdNumber id s = .next (s.doneQuiet (id.setWidth 128) true) := if_pos h

theorem execIdNumber_of_not_source {id : BitVec 10} {s : State} (h : s.cfg.isSource id.toNat = false) :
    execIdNumber id s = .refused .notASource := if_neg (by simp [h])

theorem execMtvecWrite_of_lt {addr : Word} {mode : TrapMode} {s : State}
    (h : vecPack (s.operand addr) mode < 2 ^ s.cfg.xlen.bits) :
    execMtvecWrite addr mode s = .next (s.doneCsrWrite .mtvec (BitVec.ofNat 128 (vecPack (s.operand addr) mode))) :=
  if_neg (by omega)

theorem execMtvecWrite_of_ge {addr : Word} {mode : TrapMode} {s : State}
    (h : 2 ^ s.cfg.xlen.bits ≤ vecPack (s.operand addr) mode) :
    execMtvecWrite addr mode s = .refused .sumOverflow := if_pos h

/-! ## What a step can do -/

/-- A step that completes idled, or took the oldest waiting input and did what that input does. -/
theorem step_next {s t : State} (h : step s = .next t) : (s.inputs = [] ∧ t = s.idle) ∨
    ∃ inp rest, s.inputs = inp :: rest ∧ State.receive { s with inputs := rest } inp = .next t := by
  unfold step at h
  split at h
  · rename_i hs; cases h; exact .inl ⟨hs, rfl⟩
  · rename_i hs; exact .inr ⟨_, _, hs, h⟩

/-- A step takes the oldest waiting input. -/
theorem step_cons {s : State} {inp : Input} {rest : List Input} (h : s.inputs = inp :: rest) :
    step s = State.receive { s with inputs := rest } inp := by
  simp [step, h]

/-- A command that completes decoded to an operation that completed. -/
theorem State.perform_next {s t : State} {c : Command} : s.perform c = .next t ↔
    ∃ i, decode c = .ok i ∧ exec i s = .next t := by
  cases hd : decode c <;> simp [State.perform, hd]

/-! ## What an operation can do

Either it only reports, or it is one of the operations that write, with exactly the write its rule gives. -/

theorem exec_next_cases {i : Instr} {s t : State} (h : exec i s = .next t) :
    (∃ res ok acc, t = s.report (.done res ok) acc) ∨
    (i = .construct ∧ t = { s.doneStore s.cfg.gcfgAddr startupPolicy with constructed := true }) ∨
    (∃ id, i = .mask id ∧ s.constructed = true ∧ t = s.doneStore (s.cfg.enabAddr id) clearValue) ∨
    (∃ id, i = .unmask id ∧ s.constructed = true ∧ t = s.doneStore (s.cfg.enabAddr id) enValue) ∨
    (∃ id, i = .pend id ∧ s.constructed = true ∧ s.cfg.softPendable id = true ∧
      t = s.doneStore (s.cfg.pendAddr id) pendValue) ∨
    (∃ id, i = .unpend id ∧ s.constructed = true ∧ s.cfg.softPendable id = true ∧
      t = s.doneStore (s.cfg.pendAddr id) clearValue) ∨
    (∃ id level, i = .setLevel id level ∧ s.constructed = true ∧
      t = s.drawn.doneStore (s.cfg.cfgAddr id) (levelByte (levelOperand (s.operand level)) s.freeNibble)) ∨
    (∃ addr mode, i = .mtvecWrite addr mode ∧ vecPack (s.operand addr) mode < 2 ^ s.cfg.xlen.bits ∧
      t = s.doneCsrWrite .mtvec (BitVec.ofNat 128 (vecPack (s.operand addr) mode))) ∨
    (∃ addr, i = .mtvtWrite addr ∧ t = s.doneCsrWrite .mtvt (tablePack (s.operand addr))) := by
  cases i with
  | construct => simp only [exec, execConstruct, Host.Outcome.next.injEq] at h; simp [← h]
  | mask id => obtain ⟨hc, rfl⟩ := State.throughHandle_next.mp h; simp [hc]
  | unmask id => obtain ⟨hc, rfl⟩ := State.throughHandle_next.mp h; simp [hc]
  | isEnabled id => obtain ⟨hc, rfl⟩ := State.throughHandle_next.mp h; exact .inl ⟨_, _, _, rfl⟩
  | pend id =>
    obtain ⟨hc, rfl⟩ := State.throughHandle_next.mp h
    split
    · simp [*]
    · exact .inl ⟨_, _, _, rfl⟩
  | unpend id =>
    obtain ⟨hc, rfl⟩ := State.throughHandle_next.mp h
    split
    · simp [*]
    · exact .inl ⟨_, _, _, rfl⟩
  | isPending id => obtain ⟨hc, rfl⟩ := State.throughHandle_next.mp h; exact .inl ⟨_, _, _, rfl⟩
  | setLevel id level =>
    obtain ⟨hc, rfl⟩ := State.throughHandle_next.mp h
    exact .inr (.inr (.inr (.inr (.inr (.inr (.inl ⟨_, _, rfl, hc, rfl⟩))))))
  | getLevel id => obtain ⟨hc, rfl⟩ := State.throughHandle_next.mp h; exact .inl ⟨_, _, _, rfl⟩
  | idNumber id =>
    simp only [exec, execIdNumber] at h
    split at h
    · cases h; exact .inl ⟨_, _, _, rfl⟩
    · cases h
  | idTryFrom code => cases h; exact .inl ⟨_, _, _, rfl⟩
  | mcauseBits => cases h; exact .inl ⟨_, _, _, rfl⟩
  | mcauseCode => cases h; exact .inl ⟨_, _, _, rfl⟩
  | mcauseIsInterrupt => cases h; exact .inl ⟨_, _, _, rfl⟩
  | mcauseIsException => cases h; exact .inl ⟨_, _, _, rfl⟩
  | mcauseCause => cases h; exact .inl ⟨_, _, _, rfl⟩
  | mcauseMpie => obtain ⟨_, rfl⟩ := State.inExtended_next.mp h; exact .inl ⟨_, _, _, rfl⟩
  | mcauseMpp => obtain ⟨_, rfl⟩ := State.inExtended_next.mp h; exact .inl ⟨_, _, _, rfl⟩
  | mcauseMinhv => obtain ⟨_, rfl⟩ := State.inExtended_next.mp h; exact .inl ⟨_, _, _, rfl⟩
  | mtvecAddress => cases h; exact .inl ⟨_, _, _, rfl⟩
  | mtvecTrapMode =>
    simp only [exec, execMtvecTrapMode, Host.Outcome.next.injEq] at h
    subst h
    split <;> exact .inl ⟨_, _, _, rfl⟩
  | mtvecWrite addr mode =>
    simp only [exec, execMtvecWrite] at h
    split at h
    · cases h
    · cases h
      exact .inr (.inr (.inr (.inr (.inr (.inr (.inr (.inl ⟨_, _, rfl, by omega, rfl⟩)))))))
  | mtvtAddress => cases h; exact .inl ⟨_, _, _, rfl⟩
  | mtvtWrite addr =>
    cases h
    exact .inr (.inr (.inr (.inr (.inr (.inr (.inr (.inr ⟨_, rfl, rfl⟩)))))))

/-- No operation touches the parameters, the reset count or the waiting inputs. -/
theorem exec_next_setting {i : Instr} {s t : State} (h : exec i s = .next t) : s.SameSetting t := by
  rcases exec_next_cases h with ⟨_, _, _, rfl⟩ | ⟨_, rfl⟩ | ⟨_, _, _, rfl⟩ | ⟨_, _, _, rfl⟩ | ⟨_, _, _, _, rfl⟩ |
    ⟨_, _, _, _, rfl⟩ | ⟨_, _, _, _, rfl⟩ | ⟨_, _, _, _, rfl⟩ | ⟨_, _, rfl⟩ <;> simp [State.SameSetting]

end Sys2Proof.Machine

namespace Sys2Proof

/-! ## Where the accesses land -/

theorem Config.inHartLocal_iff {c : Config} {a : Nat} : c.inHartLocal a = true ↔ c.base ≤ a ∧ a ≤ c.base + 0xC00 := by
  simp [Config.inHartLocal]

theorem Config.inTimer_iff {c : Config} {a : Nat} : c.inTimer a = true ↔
    (c.clintBase ≤ a ∧ a < c.clintBase + 4) ∨ (c.clintBase + 0x4000 ≤ a ∧ a < c.clintBase + 0x4008) ∨
    (c.clintBase + 0xBFF8 ≤ a ∧ a < c.clintBase + 0xC000) := by
  simp only [Config.inTimer, Bool.or_eq_true, Bool.and_eq_true, decide_eq_true_eq]
  simp only [Config.msipAddr, Config.mtimecmpAddr, Config.mtimeAddr]
  omega

/-- The accesses R42 admits. -/
theorem Config.admits_iff {c : Config} {a n : Nat} : c.admits a n = true ↔
    (n = 1 ∧ c.base ≤ a ∧ a ≤ c.base + 0xC00) ∨ (n = 4 ∧ a = c.clintBase) ∨
    (n = 8 ∧ (a = c.clintBase + 0x4000 ∨ a = c.clintBase + 0xBFF8)) := by
  simp only [Config.admits, Bool.or_eq_true, Bool.and_eq_true, decide_eq_true_eq, Config.inHartLocal_iff]
  simp only [Config.msipAddr, Config.mtimecmpAddr, Config.mtimeAddr, Nat.add_zero, or_assoc]

theorem Config.softPendable_iff {c : Config} {id : BitVec 10} :
    c.softPendable id = true ↔ id.toNat = 3 ∨ id.toNat = c.csipCode := by
  simp only [Config.softPendable, Bool.or_eq_true, decide_eq_true_eq]
  rfl

theorem Config.pendAddr_inHartLocal (c : Config) (id : BitVec 10) : c.inHartLocal (c.pendAddr id) = true := by
  have := id.isLt
  exact Config.inHartLocal_iff.mpr ⟨by unfold Config.pendAddr; omega, by unfold Config.pendAddr; omega⟩

theorem Config.pendAddr_mapped (c : Config) (id : BitVec 10) : c.mapped (c.pendAddr id) = true := by
  simp [Config.mapped, c.pendAddr_inHartLocal id]

theorem Config.enabAddr_inHartLocal (c : Config) (id : BitVec 10) : c.inHartLocal (c.enabAddr id) = true := by
  have := id.isLt
  exact Config.inHartLocal_iff.mpr ⟨by unfold Config.enabAddr; omega, by unfold Config.enabAddr; omega⟩

theorem Config.enabAddr_mapped (c : Config) (id : BitVec 10) : c.mapped (c.enabAddr id) = true := by
  simp [Config.mapped, c.enabAddr_inHartLocal id]

theorem Config.cfgAddr_inHartLocal (c : Config) (id : BitVec 10) : c.inHartLocal (c.cfgAddr id) = true := by
  have := id.isLt
  exact Config.inHartLocal_iff.mpr ⟨by unfold Config.cfgAddr; omega, by unfold Config.cfgAddr; omega⟩

theorem Config.cfgAddr_mapped (c : Config) (id : BitVec 10) : c.mapped (c.cfgAddr id) = true := by
  simp [Config.mapped, c.cfgAddr_inHartLocal id]

theorem Config.gcfgAddr_inHartLocal (c : Config) : c.inHartLocal c.gcfgAddr = true := by
  exact Config.inHartLocal_iff.mpr ⟨by unfold Config.gcfgAddr; omega, by unfold Config.gcfgAddr; omega⟩

theorem Config.gcfgAddr_mapped (c : Config) : c.mapped c.gcfgAddr = true := by
  simp [Config.mapped, c.gcfgAddr_inHartLocal]

/-- Every byte of an admitted access is mapped to a cell. -/
theorem Config.admits_mapped {c : Config} {a n b : Nat} (h : c.admits a n = true) (h1 : a ≤ b) (h2 : b < a + n) :
    c.mapped b = true := by
  simp only [Config.admits, Config.mapped, Config.inTimer, Config.inHartLocal, Bool.or_eq_true, Bool.and_eq_true,
    decide_eq_true_eq] at h ⊢
  omega

/-- Each byte of `MTIME` is mapped. -/
theorem Config.mtime_mapped {c : Config} {b : Nat} (h1 : c.mtimeAddr ≤ b) (h2 : b < c.mtimeAddr + 8) :
    c.mapped b = true := by
  simp [Config.mapped, Config.inTimer, h1, h2]

/-- The constraints of R48, as facts about addresses. -/
theorem Config.wf_apart {c : Config} (h : c.wf = true) :
    c.base + 0xC01 ≤ c.clintBase ∨ c.clintBase + 0xC000 ≤ c.base := by
  simp only [Config.wf, rangesApart, Bool.and_eq_true, Bool.or_eq_true, decide_eq_true_eq] at h
  exact h.1.1.2

theorem Config.wf_base {c : Config} (h : c.wf = true) : c.base + 0xC00 < 2 ^ c.xlen.bits := by
  simp only [Config.wf, Bool.and_eq_true, decide_eq_true_eq] at h
  exact h.1.1.1.1.1.2

theorem Config.wf_valid {c : Config} (h : c.wf = true) {v : Nat} (hv : v ∈ c.valid) : v ≤ c.max ∧ v ≤ 1023 := by
  simp only [Config.wf, Config.validOk, Bool.and_eq_true, List.all_eq_true, decide_eq_true_eq] at h
  obtain ⟨⟨⟨⟨⟨⟨⟨⟨⟨hm, hv', _⟩, _⟩, _⟩, _⟩, _⟩, _⟩, _⟩, _⟩, _⟩ := h
  have := hv' v hv
  exact ⟨this, this.trans hm⟩

end Sys2Proof
end

