-- ==== Sys2Proof/Laws/PerInstr.lean ====
section
/-! SUPPORT. The statements made of each instruction as syntax, one lemma a constructor. -/

namespace Sys2Proof.Laws.EncodedInItsRow

/-- The header an operation encodes to matches the row of R51 of its own mnemonic. -/
def Statement (i : Instr) : Prop :=
  ∃ r ∈ opcodeRows, r.mnemonic = i.mnemonic ∧ r.matches (encode i).hdr = true

theorem construct : Statement (.construct) :=
  ⟨⟨"CONSTRUCT", 0x0400, 0xFFFF⟩, by decide, rfl, (OpcodeRow.matches_plain (o := 0x01) (by decide)).mpr ⟨rfl, rfl, rfl⟩⟩
theorem mask (id : BitVec 10) : Statement (.mask id) :=
  ⟨⟨"MASK", 0x0800, 0xFC00⟩, by decide, rfl, (OpcodeRow.matches_withId (o := 0x02) (by decide)).mpr ⟨rfl, rfl⟩⟩
theorem unmask (id : BitVec 10) : Statement (.unmask id) :=
  ⟨⟨"UNMASK", 0x0C00, 0xFC00⟩, by decide, rfl, (OpcodeRow.matches_withId (o := 0x03) (by decide)).mpr ⟨rfl, rfl⟩⟩
theorem isEnabled (id : BitVec 10) : Statement (.isEnabled id) :=
  ⟨⟨"IS_ENABLED", 0x1000, 0xFC00⟩, by decide, rfl, (OpcodeRow.matches_withId (o := 0x04) (by decide)).mpr ⟨rfl, rfl⟩⟩
theorem pend (id : BitVec 10) : Statement (.pend id) :=
  ⟨⟨"PEND", 0x1400, 0xFC00⟩, by decide, rfl, (OpcodeRow.matches_withId (o := 0x05) (by decide)).mpr ⟨rfl, rfl⟩⟩
theorem unpend (id : BitVec 10) : Statement (.unpend id) :=
  ⟨⟨"UNPEND", 0x1800, 0xFC00⟩, by decide, rfl, (OpcodeRow.matches_withId (o := 0x06) (by decide)).mpr ⟨rfl, rfl⟩⟩
theorem isPending (id : BitVec 10) : Statement (.isPending id) :=
  ⟨⟨"IS_PENDING", 0x1C00, 0xFC00⟩, by decide, rfl, (OpcodeRow.matches_withId (o := 0x07) (by decide)).mpr ⟨rfl, rfl⟩⟩
theorem setLevel (id : BitVec 10) (level : Word) : Statement (.setLevel id level) :=
  ⟨⟨"SET_LEVEL", 0x2000, 0xFC00⟩, by decide, rfl, (OpcodeRow.matches_withId (o := 0x08) (by decide)).mpr ⟨rfl, rfl⟩⟩
theorem getLevel (id : BitVec 10) : Statement (.getLevel id) :=
  ⟨⟨"GET_LEVEL", 0x2400, 0xFC00⟩, by decide, rfl, (OpcodeRow.matches_withId (o := 0x09) (by decide)).mpr ⟨rfl, rfl⟩⟩
theorem idNumber (id : BitVec 10) : Statement (.idNumber id) :=
  ⟨⟨"ID_NUMBER", 0x2800, 0xFC00⟩, by decide, rfl, (OpcodeRow.matches_withId (o := 0x0A) (by decide)).mpr ⟨rfl, rfl⟩⟩
theorem idTryFrom (code : Word) : Statement (.idTryFrom code) :=
  ⟨⟨"ID_TRY_FROM", 0x2C00, 0xFFFF⟩, by decide, rfl, (OpcodeRow.matches_plain (o := 0x0B) (by decide)).mpr ⟨rfl, rfl, rfl⟩⟩
theorem mcauseBits : Statement (.mcauseBits) :=
  ⟨⟨"MCAUSE_BITS", 0x4000, 0xFFFF⟩, by decide, rfl, (OpcodeRow.matches_plain (o := 0x10) (by decide)).mpr ⟨rfl, rfl, rfl⟩⟩
theorem mcauseCode : Statement (.mcauseCode) :=
  ⟨⟨"MCAUSE_CODE", 0x4400, 0xFFFF⟩, by decide, rfl, (OpcodeRow.matches_plain (o := 0x11) (by decide)).mpr ⟨rfl, rfl, rfl⟩⟩
theorem mcauseIsInterrupt : Statement (.mcauseIsInterrupt) :=
  ⟨⟨"MCAUSE_IS_INTERRUPT", 0x4800, 0xFFFF⟩, by decide, rfl, (OpcodeRow.matches_plain (o := 0x12) (by decide)).mpr ⟨rfl, rfl, rfl⟩⟩
theorem mcauseIsException : Statement (.mcauseIsException) :=
  ⟨⟨"MCAUSE_IS_EXCEPTION", 0x4C00, 0xFFFF⟩, by decide, rfl, (OpcodeRow.matches_plain (o := 0x13) (by decide)).mpr ⟨rfl, rfl, rfl⟩⟩
theorem mcauseCause : Statement (.mcauseCause) :=
  ⟨⟨"MCAUSE_CAUSE", 0x5000, 0xFFFF⟩, by decide, rfl, (OpcodeRow.matches_plain (o := 0x14) (by decide)).mpr ⟨rfl, rfl, rfl⟩⟩
theorem mcauseMpie : Statement (.mcauseMpie) :=
  ⟨⟨"MCAUSE_MPIE", 0x5400, 0xFFFF⟩, by decide, rfl, (OpcodeRow.matches_plain (o := 0x15) (by decide)).mpr ⟨rfl, rfl, rfl⟩⟩
theorem mcauseMpp : Statement (.mcauseMpp) :=
  ⟨⟨"MCAUSE_MPP", 0x5800, 0xFFFF⟩, by decide, rfl, (OpcodeRow.matches_plain (o := 0x16) (by decide)).mpr ⟨rfl, rfl, rfl⟩⟩
theorem mcauseMinhv : Statement (.mcauseMinhv) :=
  ⟨⟨"MCAUSE_MINHV", 0x5C00, 0xFFFF⟩, by decide, rfl, (OpcodeRow.matches_plain (o := 0x17) (by decide)).mpr ⟨rfl, rfl, rfl⟩⟩
theorem mtvecAddress : Statement (.mtvecAddress) :=
  ⟨⟨"MTVEC_ADDRESS", 0x6000, 0xFFFF⟩, by decide, rfl, (OpcodeRow.matches_plain (o := 0x18) (by decide)).mpr ⟨rfl, rfl, rfl⟩⟩
theorem mtvecTrapMode : Statement (.mtvecTrapMode) :=
  ⟨⟨"MTVEC_TRAP_MODE", 0x6400, 0xFFFF⟩, by decide, rfl, (OpcodeRow.matches_plain (o := 0x19) (by decide)).mpr ⟨rfl, rfl, rfl⟩⟩
theorem mtvecWrite (addr : Word) (mode : TrapMode) : Statement (.mtvecWrite addr mode) :=
  ⟨⟨"MTVEC_WRITE", 0x6800, 0x7FFF⟩, by decide, rfl, (OpcodeRow.matches_withMode (o := 0x1A) (by decide)).mpr ⟨rfl, rfl⟩⟩
theorem mtvtAddress : Statement (.mtvtAddress) :=
  ⟨⟨"MTVT_ADDRESS", 0x6C00, 0xFFFF⟩, by decide, rfl, (OpcodeRow.matches_plain (o := 0x1B) (by decide)).mpr ⟨rfl, rfl, rfl⟩⟩
theorem mtvtWrite (addr : Word) : Statement (.mtvtWrite addr) :=
  ⟨⟨"MTVT_WRITE", 0x7000, 0xFFFF⟩, by decide, rfl, (OpcodeRow.matches_plain (o := 0x1C) (by decide)).mpr ⟨rfl, rfl, rfl⟩⟩

end Sys2Proof.Laws.EncodedInItsRow
end

