-- ==== Sys2Proof/Tests/Slice0.lean ====
section
/-! SUPPORT. Tests. Expected values are those of 95_test_vectors.md (the vector is named beside each test) and the
encodings of R51; and one witness a statement for the hypotheses of the statement. -/

namespace Sys2Proof.Tests

open Sys2Proof.Machine

/-! ## Well-formed terms: one ill-formed term a check -/

theorem test_level_too_wide_refused : (Instr.setLevel 7 0x100000000).wellFormed .x32 = false := by decide
theorem test_code_too_wide_refused : (Instr.idTryFrom 0x100000000).wellFormed .x32 = false := by decide
theorem test_vector_address_too_wide_refused :
    (Instr.mtvecWrite 0x10000000000000000 .direct).wellFormed .x64 = false := by decide
theorem test_table_address_too_wide_refused : (Instr.mtvtWrite 0x100000000).wellFormed .x32 = false := by decide
theorem test_widest_operand_accepted : (Instr.mtvtWrite 0xFFFFFFFF).wellFormed .x32 = true := by decide

/-! ## Decoding: every row of R51, from a written-out header -/

theorem test_decode_accessors :
    decode ⟨0b0000010000000000, 0⟩ = .ok .construct ∧
    decode ⟨0b0000101111111111, 0⟩ = .ok (.mask 1023) ∧
    decode ⟨0b0000110000000000, 0⟩ = .ok (.unmask 0) ∧
    decode ⟨0b0001000100101100, 0xDEADBEEF⟩ = .ok (.isEnabled 300) ∧
    decode ⟨0b0001010000000011, 0⟩ = .ok (.pend 3) ∧
    decode ⟨0b0001100000001011, 0⟩ = .ok (.unpend 11) ∧
    decode ⟨0b0001111111111111, 0⟩ = .ok (.isPending 1023) ∧
    decode ⟨0b0010000000000111, 0x14⟩ = .ok (.setLevel 7 20) ∧
    decode ⟨0b0010010000000111, 0⟩ = .ok (.getLevel 7) := by decide

theorem test_decode_identifier :
    decode ⟨0b0010101111111111, 0⟩ = .ok (.idNumber 1023) ∧
    decode ⟨0b0010110000000000, 0x12C⟩ = .ok (.idTryFrom 300) := by decide

theorem test_decode_cause :
    decode ⟨0b0100000000000000, 0⟩ = .ok .mcauseBits ∧
    decode ⟨0b0100010000000000, 0⟩ = .ok .mcauseCode ∧
    decode ⟨0b0100100000000000, 0⟩ = .ok .mcauseIsInterrupt ∧
    decode ⟨0b0100110000000000, 0⟩ = .ok .mcauseIsException ∧
    decode ⟨0b0101000000000000, 0⟩ = .ok .mcauseCause ∧
    decode ⟨0b0101010000000000, 0⟩ = .ok .mcauseMpie ∧
    decode ⟨0b0101100000000000, 0⟩ = .ok .mcauseMpp ∧
    decode ⟨0b0101110000000000, 0⟩ = .ok .mcauseMinhv := by decide

theorem test_decode_vector :
    decode ⟨0b0110000000000000, 0⟩ = .ok .mtvecAddress ∧
    decode ⟨0b0110010000000000, 0⟩ = .ok .mtvecTrapMode ∧
    decode ⟨0b0110100000000000, 0x2000⟩ = .ok (.mtvecWrite 0x2000 .direct) ∧
    decode ⟨0b1110100000000000, 0x2000⟩ = .ok (.mtvecWrite 0x2000 .vectored) ∧
    decode ⟨0b0110110000000000, 0⟩ = .ok .mtvtAddress ∧
    decode ⟨0b0111000000000000, 0x1007⟩ = .ok (.mtvtWrite 0x1007) := by decide

/-- Vectors E1 to E14. -/
theorem test_decode_reserved :
    decode ⟨0x0000, 0⟩ = .error .opCode ∧ decode ⟨0x0401, 0⟩ = .error .idField ∧
    decode ⟨0x8400, 0⟩ = .error .modeBit ∧ decode ⟨0x8807, 0⟩ = .error .modeBit ∧
    decode ⟨0x2C01, 0⟩ = .error .idField ∧ decode ⟨0x3000, 0⟩ = .error .opCode ∧
    decode ⟨0x3C00, 0⟩ = .error .opCode ∧ decode ⟨0x4001, 0⟩ = .error .idField ∧
    decode ⟨0xE801, 0⟩ = .error .idField ∧ decode ⟨0xF000, 0⟩ = .error .modeBit ∧
    decode ⟨0x7400, 0⟩ = .error .opCode ∧ decode ⟨0xFFFF, 0⟩ = .error .opCode := by decide

/-- The header of a table word is its low 16 bits, the operand word the bits above. -/
theorem test_table_word :
    decodeTableWord 16 0x0807 = some (.mask 7) ∧ decodeTableWord 48 0x142007 = some (.setLevel 7 20) ∧
    decodeTableWord 16 0x142007 = some (.setLevel 7 0) ∧ decodeTableWord 16 0x3000 = none := by decide

/-! ## One step -/

/-- The platform of the vectors, baseline configuration. -/
def platform : Config := { Config.reference with extMode := false }

/-- A small state: `PEND[3] = 0`, `PEND[7] = 1`, `ENAB[7] = 0x80`, `CFG[7] = 0x4F`, `GCFG = 0xE1`. -/
def sample : State where
  cfg := platform
  constructed := true
  mcause := 0xB8000007
  mtvec := 0x2001
  mtvt := 0x103F
  mem := [(0x02800003, 0x00), (0x02800007, 0x01), (0x02800407, 0x80), (0x02800807, 0x4F), (0x02800C00, 0xE1)]
  resets := 0
  draws := 0
  out := .none
  bus := .none
  inputs := []

/-- The same in the extended configuration. -/
def sampleExt : State := sample.underMode true

/-- The next state, where there is one, passes the check. -/
def ends (o : Host.Outcome State Fault Refusal) (p : State → Bool) : Bool :=
  match o with
  | .next t => p t
  | .fault _ => false
  | .refused _ => false

/-- The input is refused for the reason. -/
def stops (o : Host.Outcome State Fault Refusal) (r : Refusal) : Bool :=
  match o with
  | .next _ => false
  | .fault _ => false
  | .refused q => decide (q = r)

/-- What was returned and what access was made. -/
def reports (t : State) (res : Word) (ok : Bool) (a : Access) : Bool :=
  decide (t.out = .done res ok) && decide (t.bus = a)

/-- A1. -/
theorem test_construct : ends (exec .construct { sample with constructed := false }) (fun t =>
    t.constructed && decide (t.gcfg = 0x08) && decide (t.cfgByte 7 = 0x4F) &&
    reports t 0 true (.memWrite 0x02800C00 1 0x08)) = true := by decide

/-- A5, A6. -/
theorem test_mask : ends (exec (.mask 7) sample) (fun t =>
    decide (t.enab 7 = 0x00) && reports t 0 true (.memWrite 0x02800407 1 0x00)) = true := by decide
theorem test_mask_last : ends (exec (.mask 1023) sample) (fun t =>
    decide (t.enab 1023 = 0x00) && reports t 0 true (.memWrite 0x028007FF 1 0x00)) = true := by decide

/-- A9, A8. -/
theorem test_unmask : ends (exec (.unmask 7) sample) (fun t =>
    decide (t.enab 7 = 0x01) && decide (t.pend 7 = 0x01) &&
    reports t 0 true (.memWrite 0x02800407 1 0x01)) = true := by decide
theorem test_unmask_last : ends (exec (.unmask 1023) sample) (fun t =>
    decide (t.enab 1023 = 0x01) && reports t 0 true (.memWrite 0x028007FF 1 0x01)) = true := by decide

/-- A10: the whole byte is tested. -/
theorem test_isEnabled : ends (exec (.isEnabled 7) sample) (fun t =>
    reports t 1 true (.memRead 0x02800407 1)) = true := by decide

/-- A13, A17. -/
theorem test_pend : ends (exec (.pend 3) sample) (fun t =>
    decide (t.pend 3 = 0x01) && reports t 0 true (.memWrite 0x02800003 1 0x01)) = true := by decide
theorem test_pend_other_is_noop : ends (exec (.pend 7) sample) (fun t =>
    decide (t.pend 7 = 0x01) && reports t 0 true .none) = true := by decide

/-- A19 on the extended software-interrupt code, A20. -/
theorem test_unpend : ends (exec (.unpend 12) sample) (fun t =>
    decide (t.pend 12 = 0x00) && reports t 0 true (.memWrite 0x0280000C 1 0x00)) = true := by decide
theorem test_unpend_other_is_noop : ends (exec (.unpend 7) sample) (fun t =>
    decide (t.pend 7 = 0x01) && reports t 0 true .none) = true := by decide

/-- A21: reading does not clear. -/
theorem test_isPending : ends (exec (.isPending 7) sample) (fun t =>
    decide (t.pend 7 = 0x01) && reports t 1 true (.memRead 0x02800007 1)) = true := by decide

/-- A23: `CFG[7]` becomes 0x4x, whatever the free nibble. -/
theorem test_setLevel (t : State) (h : exec (.setLevel 7 20) sample = .next t) : levelOf (t.cfgByte 7) = 4 := by
  obtain rfl : _ = t := Host.Outcome.next.inj h
  exact (congrArg levelOf (State.byteAt_doneStore_same _ _ _)).trans ((levelOf_levelByte _ _).trans (by decide))

/-- A30. -/
theorem test_getLevel : ends (exec (.getLevel 7) sample) (fun t =>
    reports t 4 true (.memRead 0x02800807 1)) = true := by decide

/-- A31. -/
theorem test_accessor_needs_a_handle :
    stops (exec (.mask 7) { sample with constructed := false }) .notConstructed = true := by decide

/-- B5, B3. -/
theorem test_idNumber : ends (exec (.idNumber 7) { sample with constructed := false }) (fun t =>
    reports t 7 true .none) = true := by decide
theorem test_idNumber_not_a_source : stops (exec (.idNumber 0) sample) .notASource = true := by decide

/-- B6, B11. -/
theorem test_idTryFrom : ends (exec (.idTryFrom 11) sample) (fun t => reports t 11 true .none) = true := by decide
theorem test_idTryFrom_unsigned : ends (exec (.idTryFrom 0xFFFFFFFF) sample) (fun t =>
    reports t 0xFFFFFFFF false .none) = true := by decide

/-- P3 steps 10 to 14. -/
theorem test_mcauseBits : ends (exec .mcauseBits sample) (fun t =>
    reports t 0xB8000007 true (.csrRead 0x342)) = true := by decide
theorem test_mcauseCode : ends (exec .mcauseCode sampleExt) (fun t =>
    reports t 0x38000007 true (.csrRead 0x342)) = true := by decide
theorem test_mcauseIsInterrupt : ends (exec .mcauseIsInterrupt sample) (fun t =>
    reports t 1 true (.csrRead 0x342)) = true := by decide
theorem test_mcauseMpie : ends (exec .mcauseMpie sampleExt) (fun t =>
    reports t 1 true (.csrRead 0x342)) = true := by decide
theorem test_mcauseMpp : ends (exec .mcauseMpp sampleExt) (fun t =>
    reports t 3 true (.csrRead 0x342)) = true := by decide
theorem test_mcauseMinhv : ends (exec .mcauseMinhv sampleExt) (fun t =>
    reports t 0 true (.csrRead 0x342)) = true := by decide

/-- E15. -/
theorem test_mcauseMpie_baseline : stops (exec .mcauseMpie sample) .absentInConfiguration = true := by decide

/-- S6: the kind bit moves with the width, and a word with only bit 31 set is an exception at 64 bits (R78). -/
theorem test_mcauseIsException_wide :
    ends (exec .mcauseIsException { sample with cfg := { platform with xlen := .x64 }, mcause := 0x80000000 })
      (fun t => reports t 1 true (.csrRead 0x342)) = true := by decide

/-- S1 and P3 step 14. -/
theorem test_mcauseCause_unknown : ends (exec .mcauseCause { sample with mcause := 0x80000002 }) (fun t =>
    reports t 0x20 true (.csrRead 0x342)) = true := by decide
theorem test_mcauseCause_extended : ends (exec .mcauseCause sampleExt) (fun t =>
    reports t 0x20 true (.csrRead 0x342)) = true := by decide

/-- D9's read-back, and D2 and D6 on code 3. -/
theorem test_mtvecAddress : ends (exec .mtvecAddress sample) (fun t =>
    reports t 0x2000 true (.csrRead 0x305)) = true := by decide
theorem test_mtvecTrapMode_baseline : ends (exec .mtvecTrapMode { sample with mtvec := 0xFFFFFFFF }) (fun t =>
    reports t 3 false (.csrRead 0x305)) = true := by decide
theorem test_mtvecTrapMode_extended : ends (exec .mtvecTrapMode { sampleExt with mtvec := 0xFFFFFFFF }) (fun t =>
    reports t 1 true (.csrRead 0x305)) = true := by decide

/-- D11: the sum carries. D15: the one sum that overflows. -/
theorem test_mtvecWrite : ends (exec (.mtvecWrite 0x2003 .vectored) sample) (fun t =>
    decide (t.mtvec = 0x2004) && reports t 0 true (.csrWrite 0x305 0x2004)) = true := by decide
theorem test_mtvecWrite_overflow :
    stops (exec (.mtvecWrite 0xFFFFFFFF .vectored) sample) .sumOverflow = true := by decide

/-- D24, D20. -/
theorem test_mtvtAddress : ends (exec .mtvtAddress sample) (fun t =>
    decide (t.mtvt = 0x103F) && reports t 0x1000 true (.csrRead 0x307)) = true := by decide
theorem test_mtvtWrite : ends (exec (.mtvtWrite 0x103F) sample) (fun t =>
    decide (t.mtvt = 0x1000) && reports t 0 true (.csrWrite 0x307 0x1000)) = true := by decide

/-- F4, F5, F7, F9 and an arbiter address. -/
theorem test_raw_refusals :
    stops (sample.receive (.memRead 0x02800400 4)) .accessShape = true ∧
    stops (sample.receive (.memRead 0x02800C01 1)) .unmappedAddress = true ∧
    stops (sample.receive (.memRead 0x02000004 4)) .unmappedAddress = true ∧
    stops (sample.receive (.memRead 0x02004000 4)) .accessShape = true ∧
    stops (sample.receive (.memRead 0x0C000000 4)) .externalArbiter = true := by decide

/-- F2, F8. -/
theorem test_raw_write_byte : ends (sample.receive (.memWrite 0x02800807 1 0xA5)) (fun t =>
    decide (t.cfgByte 7 = 0xA5)) = true := by decide
theorem test_raw_write_wide : ends (sample.receive (.memWrite 0x02004000 8 0x0000000100000002)) (fun t =>
    decide (t.mtimecmp = 0x0000000100000002) && decide (t.byteAt 0x02004000 = 2)) = true := by decide

/-- G1: a reset makes the handle Unconstructed. -/
theorem test_reset : ends (step { sample with inputs := [.reset] }) (fun t =>
    !t.constructed && decide (t.resets = 1) && decide (t.mem = [])) = true := by decide

/-- P4 steps 4 and 6: one handle constructs, the other sees the byte and stays Unconstructed. -/
theorem test_two_handles :
    let x : State := { sample with constructed := false, inputs := [.command ⟨0x0400, 0⟩] }
    let y : State := { sample with constructed := false, cfg := { platform with hart := 1 } }
    (match System.stepThrough [x, y] 0 with
     | .next [t, u] => t.constructed && !u.constructed && decide (u.gcfg = 0x08)
     | _ => false) = true := by decide

/-- A word placed by `withFetchWord` is what the next step runs, right after reset. -/
theorem test_fetch_word : ends (step (State.reset.withFetchWord 16 0x4000)) (fun t =>
    decide (t.bus = .csrRead 0x342) && decide (t.inputs = [])) = true := by decide

/-! ## Witnesses: the hypotheses of each statement that has any, met together

Each clause of a statement with several gets values of its own, at a boundary of its range. -/

/-- The sample with one input waiting. -/
def waiting (inp : Input) : State := { sample with inputs := [inp] }

theorem witness_EncodeOfDecodeIsTheHeader : decode ⟨0x0BFF, 5⟩ = .ok (.mask 1023) := by decide

theorem witness_DecodingFollowsTheOperationTable :
    decode ⟨0xE800, 5⟩ = .ok (.mtvecWrite 5 .vectored) ∧ decode ⟨0xE801, 5⟩ = .error .idField ∧
    (⟨"MASK", 0x0800, 0xFC00⟩ : OpcodeRow) ∈ opcodeRows ∧
    OpcodeRow.matches ⟨"MASK", 0x0800, 0xFC00⟩ 0x0BFF = true := by decide

theorem witness_OperandWordIsIgnoredWhereUnused : decode ⟨0x1007, 0xDEADBEEF⟩ = .ok (.isEnabled 7) ∧
    (Instr.isEnabled 7).mnemonic ∉ ["SET_LEVEL", "ID_TRY_FROM", "MTVEC_WRITE", "MTVT_WRITE"] := by decide

theorem witness_StepPerformsTheDecodedCommand :
    (waiting (.command ⟨0x0807, 0⟩)).inputs = [.command ⟨0x0807, 0⟩] ∧ decode ⟨0x0807, 0⟩ = .ok (.mask 7) ∧
    (waiting .reset).inputs = [.reset] ∧ (waiting (.command ⟨0, 0⟩)).inputs = [.command ⟨0, 0⟩] ∧
    sample.inputs = [] := by decide

theorem witness_ReservedCommandIsRefusedWithNoChange :
    (waiting (.command ⟨0x0401, 0⟩)).inputs = [.command ⟨0x0401, 0⟩] ∧
    ∀ r ∈ opcodeRows, r.matches 0x0401 = false := by decide

/-- For the statements whose only hypothesis is a constructed handle. -/
theorem witness_constructed : sample.constructed = true := by decide
theorem witness_MaskDisablesItsEntryOnly : sample.constructed = true := by decide
theorem witness_UnmaskEnablesItsEntryOnly : sample.constructed = true := by decide
theorem witness_QueriesAnswerFromOneByte : sample.constructed = true := by decide
theorem witness_SetLevelWritesTheTopFourBits : sample.constructed = true := by decide

theorem witness_PendAndUnpendActOnTheSoftwareCodesOnly : sample.constructed = true ∧
    (3 : BitVec 10).toNat = 3 ∧ (12 : BitVec 10).toNat = sample.cfg.csipCode ∧
    ¬((4 : BitVec 10).toNat = 3 ∨ (4 : BitVec 10).toNat = sample.cfg.csipCode) ∧
    ¬((1023 : BitVec 10).toNat = 3 ∨ (1023 : BitVec 10).toNat = sample.cfg.csipCode) := by decide

theorem witness_AccessorsAreRefusedBeforeConstruction :
    let s : State := { waiting (.command ⟨0x2407, 0⟩) with constructed := false }
    s.inputs = [.command ⟨0x2407, 0⟩] ∧ decode ⟨0x2407, 0⟩ = .ok (.getLevel 7) ∧
    (Instr.getLevel 7).needsHandle = true ∧ s.constructed = false := by decide

theorem witness_WriteThenQueryLaws : sample.constructed = true ∧
    (∃ t, exec (.mask 7) sample = .next t) ∧ (∃ t, exec (.unmask 1023) sample = .next t) ∧
    (sample.cfg.softPendable 3 = true ∧ ∃ t, exec (.pend 3) sample = .next t) ∧
    (sample.cfg.softPendable 12 = true ∧ ∃ t, exec (.unpend 12) sample = .next t) ∧
    (sample.cfg.softPendable 7 = false ∧ ∃ t, exec (.pend 7) sample = .next t) ∧
    ∃ t, exec (.setLevel 7 0x14) sample = .next t :=
  ⟨rfl, ⟨_, rfl⟩, ⟨_, rfl⟩, ⟨by decide, _, rfl⟩, ⟨by decide, _, rfl⟩, ⟨by decide, _, rfl⟩, _, rfl⟩

theorem witness_OperationsChangeOnlyTheirOwnEntry : (∃ t, exec (.mask 7) sample = .next t) ∧
    Instr.mask 7 ≠ .mask 8 ∧ Instr.mask 7 ≠ .unmask 8 ∧ Instr.mask 7 ≠ .pend 7 ∧ Instr.mask 7 ≠ .unpend 7 ∧
    (∀ level, Instr.mask 7 ≠ .setLevel 7 level) ∧ Instr.mask 7 ≠ .construct :=
  ⟨⟨_, rfl⟩, by decide, by decide, by decide, by decide, nofun, by decide⟩

theorem witness_OtherPendingBytesAreOutOfReach : (∃ t, exec (.pend 7) sample = .next t) ∧
    (7 : BitVec 10).toNat ≠ 3 ∧ (7 : BitVec 10).toNat ≠ sample.cfg.csipCode :=
  ⟨⟨_, rfl⟩, by decide, by decide⟩

theorem witness_IdNumberIsTheIdentityOnSources : (3 : BitVec 10).toNat ∈ sample.cfg.valid ∧
    (12 : BitVec 10).toNat ∈ sample.cfg.valid ∧ sample.cfg.wf = true ∧
    (0 : BitVec 10).toNat ∉ sample.cfg.valid ∧ (1023 : BitVec 10).toNat ∉ sample.cfg.valid := by decide

theorem witness_IdTryFromReturnsTheCodeAndWhetherItIsASource :
    sample.fits 0xFFFFFFFF ∧ sample.fits 11 := by decide

theorem witness_IdentifierRoundTrip : sample.cfg.wf = true ∧ 12 ∈ sample.cfg.valid ∧
    (sample.fits 256 ∧ sample.cfg.max < (256 : Word).toNat) ∧
    sample.fits 11 ∧ ∃ t, exec (.idTryFrom 11) sample = .next t ∧ t.out = .done 11 true :=
  ⟨by decide, by decide, by decide, by decide, _, rfl, by decide⟩

theorem witness_CauseKindsAreExclusiveAndExhaustive :
    let s : State := { sample with mcause := 0x80000000 }
    let t : State := { sample with mcause := 0x7FFFFFFF }
    s.fits s.mcause ∧ 2 ^ (s.cfg.xlen.bits - 1) ≤ s.mcause.toNat ∧
    t.fits t.mcause ∧ t.mcause.toNat < 2 ^ (t.cfg.xlen.bits - 1) := by decide

theorem witness_CauseTablesAreTotal :
    let s : State := { sample with mcause := 0x0000000F }
    let t : State := { sampleExt with mcause := 0x8000000B }
    let u : State := { sample with mcause := 0x8000000C }
    s.fits s.mcause ∧ 15 = s.mcause.toNat % 2 ^ (s.cfg.xlen.bits - 1) ∧
    t.fits t.mcause ∧ 11 = t.mcause.toNat % 2 ^ (t.cfg.xlen.bits - 1) ∧ t.cfg.extMode = true ∧
    u.fits u.mcause ∧ 12 = u.mcause.toNat % 2 ^ (u.cfg.xlen.bits - 1) ∧ u.cfg.extMode = false := by decide

theorem witness_ExtendedCauseFields : sampleExt.cfg.extMode = true ∧ sample.cfg.extMode = false := by decide

theorem witness_NamedCauseNeedsClearExtendedFields :
    let s : State := { sample with mcause := 0x80000007 }
    s.fits s.mcause ∧ (∃ t, exec .mcauseCode s = .next t ∧ t.out = .done 7 true) ∧
    (∃ u, exec .mcauseCause s = .next u ∧ u.out = .done 0x37 true) ∧ (0x37 : Word).toNat / 16 % 2 = 1 :=
  ⟨by decide, ⟨_, rfl, by decide⟩, ⟨_, rfl, by decide⟩, by decide⟩

theorem witness_TrapModeTable :
    let s : State := { sampleExt with mtvec := 3 }
    let t : State := { sample with mtvec := 1 }
    let u : State := { sample with mtvec := 2 }
    (s.cfg.extMode = true ∨ s.mtvec.toNat % 4 < 2) ∧ (t.cfg.extMode = true ∨ t.mtvec.toNat % 4 < 2) ∧
    u.cfg.extMode = false ∧ 2 ≤ u.mtvec.toNat % 4 := by decide

theorem witness_TrapVectorWriteStoresTheSum : sample.fits 0xFFFFFFFF ∧
    ¬((0xFFFFFFFF : Word).toNat = 2 ^ sample.cfg.xlen.bits - 1 ∧ TrapMode.direct = .vectored) ∧
    ¬((0xFFFFFFFE : Word).toNat = 2 ^ sample.cfg.xlen.bits - 1 ∧ TrapMode.vectored = .vectored) ∧
    (0xFFFFFFFF : Word).toNat = 2 ^ sample.cfg.xlen.bits - 1 := by decide

theorem witness_TableBaseWriteTruncatesSilently : sample.fits 0xFFFFFFFF := by decide

theorem witness_VectorRegisterRoundTrips :
    sample.fits 0xFFFFFFFC ∧ (0xFFFFFFFC : Word).toNat % 4 = 0 := by decide

theorem witness_HartLocalBlockMap :
    (∀ a ∈ [(0x02800000 : Word), 0x02800400, 0x02800BFF, 0x02800C00],
      sample.cfg.base ≤ a.toNat ∧ a.toNat ≤ sample.cfg.base + 0xC00) ∧
    (0x028003FF : Word).toNat = sample.cfg.base + (1023 : BitVec 10).toNat ∧
    (0x02800400 : Word).toNat = sample.cfg.base + 0x400 + (0 : BitVec 10).toNat ∧
    (0x02800BFF : Word).toNat = sample.cfg.base + 0x800 + (1023 : BitVec 10).toNat ∧
    (0x02800C00 : Word).toNat = sample.cfg.base + 0xC00 :=
  ⟨by simp [sample, platform, Config.reference, Config.base, hartBaseOf], by decide, by decide, by decide, by decide⟩

theorem witness_TimerBlockMap : (0x02000000 : Word).toNat = sample.cfg.clintBase ∧
    (0x02004000 : Word).toNat = sample.cfg.clintBase + 0x4000 ∧
    (0x0200BFF8 : Word).toNat = sample.cfg.clintBase + 0xBFF8 := by decide

theorem witness_MultiByteRegistersAreLittleEndian :
    (∃ t, sample.receive (.memWrite 0x02004000 8 0x0102030405060708) = .next t) ∧ 7 < 8 ∧ 0 < 8 :=
  ⟨⟨_, rfl⟩, by decide, by decide⟩

theorem witness_RawAccessesReachExactCellsOnly :
    (∃ k < 1, sample.cfg.mapped ((0x02800C01 : Word).toNat + k) = false) ∧
    ∃ k < 8, sample.cfg.mapped ((0x02004004 : Word).toNat + k) = false :=
  ⟨⟨0, by decide, by decide⟩, 4, by decide, by decide⟩

theorem witness_CsrPrimitiveIsAPlainCell : sample.fits 0xFFFFFFFF ∧
    (0x300 : BitVec 12) ∉ [(0x342 : BitVec 12), 0x305, 0x307] := by decide

theorem witness_EntryAddressesDoNotWrap : sample.cfg.wf = true ∧
    sample.cfg.gcfgAddr ∈ [sample.cfg.pendAddr 0, sample.cfg.enabAddr 0, sample.cfg.cfgAddr 0, sample.cfg.gcfgAddr] := by
  decide

/-- One operation a kind of access. -/
theorem witness_EachOperationMakesAtMostOneAccess : (∃ t, exec (.idNumber 7) sample = .next t) ∧
    (∃ t, exec (.isEnabled 7) sample = .next t) ∧ (∃ t, exec .construct sample = .next t) ∧
    (∃ t, exec (.pend 3) sample = .next t) ∧ (∃ t, exec (.pend 7) sample = .next t) ∧
    (∃ t, exec .mcauseBits sample = .next t) ∧ ∃ t, exec (.mtvecWrite 0xFFFFFFFE .vectored) sample = .next t :=
  ⟨⟨_, rfl⟩, ⟨_, rfl⟩, ⟨_, rfl⟩, ⟨_, rfl⟩, ⟨_, rfl⟩, ⟨_, rfl⟩, _, rfl⟩

/-- Both ways for `ok` to be 0. -/
theorem witness_EveryOperationIsDoneOrRefused :
    (∃ t, exec (.idTryFrom 5) sample = .next t ∧ t.out = .done 5 false) ∧
    ∃ t, exec .mtvecTrapMode { sample with mtvec := 2 } = .next t ∧ t.out = .done 2 false :=
  ⟨⟨_, rfl, by decide⟩, _, rfl, by decide⟩

theorem witness_InvariantHoldsAfterReset : Config.reference.wf = true ∧ platform.wf = true := by decide

theorem witness_EveryStepKeepsTheInvariant :
    (waiting (.command ⟨0x0807, 0⟩)).Inv ∧ ∃ t, step (waiting (.command ⟨0x0807, 0⟩)) = .next t :=
  ⟨⟨by decide, by decide, by decide, by decide, by decide, by decide, trivial⟩, _, rfl⟩

theorem witness_ParametersNeverChange : ∃ t, step (waiting .reset) = .next t := ⟨_, rfl⟩

theorem witness_HandleStateChangesOnlyByConstructAndReset :
    (∃ t, step { waiting (.command ⟨0x0400, 0⟩) with constructed := false } = .next t ∧ t.constructed = true) ∧
    ∃ t, step (waiting .reset) = .next t ∧ t.constructed = false :=
  ⟨⟨_, rfl, rfl⟩, _, rfl, rfl⟩

theorem witness_OnlyTheEnvironmentWritesTheCause :
    ∃ t, step (waiting (.trapCause 7)) = .next t ∧ t.mcause ≠ (waiting (.trapCause 7)).mcause :=
  ⟨_, rfl, by decide⟩

theorem witness_VectorRegistersChangeOnlyByTheirWrites :
    (∃ t, exec (.mtvecWrite 0x2000 .direct) sample = .next t ∧ t.mtvec ≠ sample.mtvec) ∧
    ∃ t, exec (.mtvtWrite 0x1007) sample = .next t ∧ t.mtvt ≠ sample.mtvt :=
  ⟨⟨_, rfl, by decide⟩, _, rfl, by decide⟩

theorem witness_OperationsLeaveTheTimerBlockAlone :
    sample.cfg.wf = true ∧ ∃ t, exec (.unmask 7) sample = .next t := ⟨by decide, _, rfl⟩

theorem witness_EnvironmentStepsChangeOneRegister : sample.fits 0xFFFFFFFF := by decide

theorem witness_ResetForgetsEveryCell :
    let u : State := { sample with mem := [], mcause := 0, constructed := false }
    sample.cfg = u.cfg ∧ sample.resets = u.resets ∧ sample ≠ u := by decide

theorem witness_ConfigurationSteersFiveOperationsOnly :
    (Instr.mask 7).dependsOnMode = false ∧ Instr.mcauseCode.dependsOnMode = false := by decide

theorem witness_IdentifierSetSteersItsOwnOperationsOnly :
    (Instr.mask 300).readsIdentifiers = false ∧ Instr.mcauseCause.readsIdentifiers = false := by decide

theorem witness_KeptContractsProtectWhatOthersRelyOn :
    let r : Reliance := ⟨[8, 1023], [7, 8], true⟩
    let s : State := { sample with mem := [(0x02800408, 0x00)] }
    (Instr.unmask 7).respects r = true ∧ (∃ t, exec (.unmask 7) s = .next t) ∧
    (8 : BitVec 10) ∈ r.masked ∧ s.enab 8 = 0 ∧ (7 : BitVec 10) ∈ r.levels ∧ r.tableBase = true :=
  ⟨by decide, ⟨_, rfl⟩, by decide, by decide, by decide, rfl⟩

theorem witness_AliasingHandlesShareCellsNotHandleState :
    let x : State := waiting (.command ⟨0x0C0B, 0⟩)
    let y : State := { sample with constructed := false, cfg := { platform with hart := 1 } }
    x.inputs = [.command ⟨0x0C0B, 0⟩] ∧ (∃ t, step x = .next t) ∧ y.cfg.base = x.cfg.base ∧ y.resets = x.resets :=
  ⟨rfl, ⟨_, rfl⟩, by decide, rfl⟩

end Sys2Proof.Tests
end

section
/-! SUPPORT. The hart-local block as an array of byte cells (R33 of 20_memory.md): what a 1-byte raw access does
there, and which offset each cell of a code has. -/

namespace Sys2Proof.Machine

/-! ## Accesses of one byte -/

@[simp] theorem State.bytesAt_one (s : State) (a : Nat) : s.bytesAt a 1 = (s.byteAt a).toNat := by
  simp [State.bytesAt]

/-- After a raw store of a word at one byte that byte is the word's low 8 bits. -/
theorem State.byteAt_putBytes_one (s : State) (a : Nat) (v : Word) :
    (s.putBytes a 1 v.toNat).byteAt a = v.setWidth 8 := by
  simp [State.putBytes, BitVec.ofNat_toNat]

/-- Every 1-byte raw write in the hart-local block completes. -/
theorem State.rawWrite_hartLocal (s : State) {a : Nat} (v : Word) (h : s.cfg.inHartLocal a = true) :
    s.rawWrite a 1 v = .next ((s.putBytes a 1 v.toNat).report .none (.memWrite a 1 v)) :=
  State.rawWrite_next.mpr ⟨Config.admits_iff.mpr (.inl ⟨rfl, Config.inHartLocal_iff.mp h⟩), rfl⟩

/-- Every 1-byte raw read in the hart-local block completes, with the byte zero-extended. -/
theorem State.rawRead_hartLocal (s : State) {a : Nat} (h : s.cfg.inHartLocal a = true) :
    s.rawRead a 1 = .next (s.report (.data ((s.byteAt a).setWidth 128)) (.memRead a 1)) :=
  State.rawRead_next.mpr ⟨Config.admits_iff.mpr (.inl ⟨rfl, Config.inHartLocal_iff.mp h⟩), by
    rw [State.bytesAt_one, BitVec.ofNat_toNat]⟩

/-! ## The offsets of the cells -/

theorem State.byteAt_eq_pend (s : State) {a : Nat} {id : BitVec 10} (h : a = s.cfg.base + id.toNat) :
    s.byteAt a = s.pend id := congrArg s.byteAt h

theorem State.byteAt_eq_enab (s : State) {a : Nat} {id : BitVec 10} (h : a = s.cfg.base + 0x400 + id.toNat) :
    s.byteAt a = s.enab id := congrArg s.byteAt h

theorem State.byteAt_eq_cfgByte (s : State) {a : Nat} {id : BitVec 10} (h : a = s.cfg.base + 0x800 + id.toNat) :
    s.byteAt a = s.cfgByte id := congrArg s.byteAt h

theorem State.byteAt_eq_gcfg (s : State) {a : Nat} (h : a = s.cfg.base + 0xC00) : s.byteAt a = s.gcfg :=
  congrArg s.byteAt h

/-- Settles O33: an offset up to 0xC00 is in the block, so both accesses complete as the raw primitives say, and each
cell is the byte at its entry address. -/
theorem hartLocalBlockMap : Obligations.HartLocalBlockMap := by
  intro s addr v hlo hhi
  have hin : s.cfg.inHartLocal addr.toNat = true := Config.inHartLocal_iff.mpr ⟨hlo, hhi⟩
  refine ⟨⟨_, s.rawWrite_hartLocal v hin, ?_, ?_⟩, ⟨_, s.rawRead_hartLocal hin, rfl, ?_⟩, fun id => ⟨?_, ?_, ?_⟩, ?_⟩
  · rw [State.byteAt_report, State.byteAt_putBytes_one]
  · exact s.onlyStores_putBytes ..
  · exact s.onlyReports_report _ _
  · exact s.byteAt_eq_pend
  · exact s.byteAt_eq_enab
  · exact s.byteAt_eq_cfgByte
  · exact s.byteAt_eq_gcfg

end Sys2Proof.Machine
end

section
/-! SUPPORT. `MASK` and the three queries of the hart-local controller (R62, R64, R67, R69 of 40_clic_accessors.md):
which headers they have, and what each does through a constructed handle. -/

namespace Sys2Proof

/-! ## Headers -/

/-- Decoding a header written the way R61 to R69 write it: the `op` row or-ed with the code. -/
theorem decode_or_setWidth {h : BitVec 16} {op : BitVec 5} {id : BitVec 10} {arg : Word} {i : Instr}
    (hd : decode ⟨headerOf false op id, arg⟩ = .ok i) (hh : h = op.setWidth 16 <<< 10) :
    decode ⟨h ||| id.setWidth 16, arg⟩ = .ok i := by
  rw [hh, ← headerOf_eq_or, hd]

theorem decode_mask (id : BitVec 10) (arg : Word) : decode ⟨headerOf false 0x02 id, arg⟩ = .ok (.mask id) := by
  simp [decode, decodeWithId]

theorem decode_isEnabled (id : BitVec 10) (arg : Word) :
    decode ⟨headerOf false 0x04 id, arg⟩ = .ok (.isEnabled id) := by
  simp [decode, decodeWithId]

theorem decode_isPending (id : BitVec 10) (arg : Word) :
    decode ⟨headerOf false 0x07 id, arg⟩ = .ok (.isPending id) := by
  simp [decode, decodeWithId]

theorem decode_getLevel (id : BitVec 10) (arg : Word) :
    decode ⟨headerOf false 0x09 id, arg⟩ = .ok (.getLevel id) := by
  simp [decode, decodeWithId]

namespace Machine

/-! ## Stores and loads -/

/-- A 1-byte load changes no cell. -/
theorem State.onlyReports_doneLoad (s : State) (a : Nat) (res : Word) : s.OnlyReports (s.doneLoad a res) :=
  s.onlyReports_report _ _

/-- Storing the byte that is already there changes no cell. -/
theorem State.onlyReports_doneStore_of_byteAt {s : State} {a : Nat} {v : Byte} (h : s.byteAt a = v) :
    s.OnlyReports (s.doneStore a v) := by
  refine ⟨fun b => ?_, ⟨rfl, rfl, rfl⟩, ⟨rfl, rfl, rfl⟩, rfl, rfl⟩
  rw [State.byteAt_doneStore]
  split
  case isTrue hb => rw [hb, h]
  case isFalse => rfl

/-! ## The operations through a constructed handle -/

theorem exec_mask_of_constructed {s : State} (id : BitVec 10) (h : s.constructed = true) :
    exec (.mask id) s = .next (s.doneStore (s.cfg.enabAddr id) clearValue) :=
  State.throughHandle_of_constructed h _

theorem exec_isEnabled_of_constructed {s : State} (id : BitVec 10) (h : s.constructed = true) :
    exec (.isEnabled id) s = .next (s.doneLoad (s.cfg.enabAddr id) (if s.enab id = 0 then 0 else 1)) := by
  rw [← boolWord_nonzeroByte]
  exact State.throughHandle_of_constructed h _

theorem exec_isPending_of_constructed {s : State} (id : BitVec 10) (h : s.constructed = true) :
    exec (.isPending id) s = .next (s.doneLoad (s.cfg.pendAddr id) (if s.pend id = 0 then 0 else 1)) := by
  rw [← boolWord_nonzeroByte]
  exact State.throughHandle_of_constructed h _

theorem exec_getLevel_of_constructed {s : State} (id : BitVec 10) (h : s.constructed = true) :
    exec (.getLevel id) s = .next (s.doneLoad (s.cfg.cfgAddr id) ((levelOf (s.cfgByte id)).setWidth 128)) :=
  State.throughHandle_of_constructed h _

/-- The level in the result word is the configuration byte shifted right by 4 (R69). -/
theorem toNat_setWidth_levelOf (b : Byte) : ((levelOf b).setWidth 128).toNat = b.toNat / 16 := by
  rw [BitVec.toNat_setWidth_of_le (by decide), levelOf_toNat]

/-! ## The statements -/

/-- Settles O9: `MASK` is one store of 0x00 at `ENAB[id]`, and a second one stores the byte that is there. -/
theorem maskDisablesItsEntryOnly : Obligations.MaskDisablesItsEntryOnly := by
  intro s id arg hc
  refine ⟨decode_or_setWidth (decode_mask id arg) rfl, _, exec_mask_of_constructed id hc, ?_, rfl, rfl, ?_,
    _, exec_mask_of_constructed id hc, ?_⟩
  · exact s.byteAt_doneStore_same _ _
  · exact s.onlyStores_doneStore _ _
  · exact State.onlyReports_doneStore_of_byteAt (s.byteAt_doneStore_same _ _)

/-- Settles O11: each query is one load, whose result is computed from the byte read. -/
theorem queriesAnswerFromOneByte : Obligations.QueriesAnswerFromOneByte := by
  intro s id arg hc
  refine ⟨decode_or_setWidth (decode_isEnabled id arg) rfl, decode_or_setWidth (decode_isPending id arg) rfl,
    decode_or_setWidth (decode_getLevel id arg) rfl, ?isEnabled, ?isPending, ?getLevel⟩
  case isEnabled => exact ⟨_, exec_isEnabled_of_constructed id hc, rfl, rfl, s.onlyReports_doneLoad _ _⟩
  case isPending => exact ⟨_, exec_isPending_of_constructed id hc, rfl, rfl, s.onlyReports_doneLoad _ _⟩
  case getLevel =>
    exact ⟨_, _, exec_getLevel_of_constructed id hc, rfl, toNat_setWidth_levelOf _, rfl, s.onlyReports_doneLoad _ _⟩

end Machine

end Sys2Proof
end

section
/-! SUPPORT. `ID_TRY_FROM` of the identifier capability (R74 of 41_identifier.md): its header, and what it does with a
native operand word. -/

namespace Sys2Proof

theorem Config.isSource_iff {c : Config} {code : Nat} : c.isSource code = true ↔ code ∈ c.valid :=
  decide_eq_true_iff

theorem decode_idTryFrom (code : Word) : decode ⟨headerOf false 0x0B 0, code⟩ = .ok (.idTryFrom code) := by
  simp [decode, decodePlain]

namespace Machine

/-- The block sees the whole of a native operand word. -/
theorem State.operand_of_fits {s : State} {w : Word} (h : s.fits w) : s.operand w = w := Xlen.fit_of_lt h

/-- A step without an access changes no cell. -/
theorem State.onlyReports_doneQuiet (s : State) (res : Word) (ok : Bool) : s.OnlyReports (s.doneQuiet res ok) :=
  s.onlyReports_report _ _

theorem exec_idTryFrom_of_fits {s : State} {code : Word} (h : s.fits code) : exec (.idTryFrom code) s =
    .next (s.doneQuiet code (decide (code.toNat ≤ s.cfg.max) && s.cfg.isSource code.toNat)) := by
  simp only [exec, execIdTryFrom, State.operand_of_fits h]

/-- Settles O20: a native operand is kept whole, so `ID_TRY_FROM` answers the code itself, and its `ok` is the two
tests of R74. -/
theorem idTryFromReturnsTheCodeAndWhetherItIsASource :
    Obligations.IdTryFromReturnsTheCodeAndWhetherItIsASource := by
  intro s code hfits
  have hhdr : headerOf false 0x0B 0 = 0x2C00 := by decide
  refine ⟨hhdr ▸ decode_idTryFrom code, _, _, exec_idTryFrom_of_fits hfits, rfl, ?_, rfl,
    s.onlyReports_doneQuiet _ _⟩
  rw [Bool.and_eq_true, decide_eq_true_iff, Config.isSource_iff]

end Machine

end Sys2Proof
end

section
/-! SUPPORT. The first four operations of the trap-cause decoder (R76 to R79 of 42_trap_cause.md): which headers they
have, and what the two kind tests answer for a native cause word. -/

namespace Sys2Proof

/-! ## Headers -/

/-- Decoding a header written as the one word of a row with no operand field: the row laid out from its `op`. -/
theorem decode_of_eq_headerOf {h : BitVec 16} {op : BitVec 5} {arg : Word} {i : Instr}
    (hd : decode ⟨headerOf false op 0, arg⟩ = .ok i) (hh : h = headerOf false op 0) : decode ⟨h, arg⟩ = .ok i := by
  rw [hh, hd]

theorem decode_mcauseBits (arg : Word) : decode ⟨headerOf false 0x10 0, arg⟩ = .ok .mcauseBits := by
  simp [decode, decodePlain]

theorem decode_mcauseCode (arg : Word) : decode ⟨headerOf false 0x11 0, arg⟩ = .ok .mcauseCode := by
  simp [decode, decodePlain]

theorem decode_mcauseIsInterrupt (arg : Word) : decode ⟨headerOf false 0x12 0, arg⟩ = .ok .mcauseIsInterrupt := by
  simp [decode, decodePlain]

theorem decode_mcauseIsException (arg : Word) : decode ⟨headerOf false 0x13 0, arg⟩ = .ok .mcauseIsException := by
  simp [decode, decodePlain]

/-! ## The kind of a native cause word -/

/-- From `2^(XLEN-1)` up the top bit is set (R78). -/
theorem causeIsInterrupt_of_ge {x : Xlen} {w : Word} (h : w.toNat < 2 ^ x.bits) (hge : 2 ^ (x.bits - 1) ≤ w.toNat) :
    causeIsInterrupt x w = true := by
  rw [causeIsInterrupt_eq h, decide_eq_true hge]

/-- Below `2^(XLEN-1)` the top bit is clear (R79). -/
theorem causeIsInterrupt_of_lt {x : Xlen} {w : Word} (hlt : w.toNat < 2 ^ (x.bits - 1)) :
    causeIsInterrupt x w = false :=
  Nat.testBit_lt_two_pow hlt

namespace Machine

/-- A step that reads one control register changes no cell. -/
theorem State.onlyReports_doneCsrRead (s : State) (r : Csr) (res : Word) (ok : Bool) :
    s.OnlyReports (s.doneCsrRead r res ok) :=
  s.onlyReports_report _ _

/-! ## The four operations -/

theorem exec_mcauseBits (s : State) : exec .mcauseBits s = .next (s.doneCsrRead .mcause s.mcause true) := rfl

theorem exec_mcauseCode (s : State) :
    exec .mcauseCode s = .next (s.doneCsrRead .mcause (causeCode s.cfg.xlen s.mcause) true) := rfl

theorem exec_mcauseIsInterrupt (s : State) : exec .mcauseIsInterrupt s =
    .next (s.doneCsrRead .mcause (boolWord (causeIsInterrupt s.cfg.xlen s.mcause)) true) := rfl

theorem exec_mcauseIsException (s : State) : exec .mcauseIsException s =
    .next (s.doneCsrRead .mcause (boolWord (!causeIsInterrupt s.cfg.xlen s.mcause)) true) := rfl

/-! ## The statements -/

/-- Settles O22: each operation is one read of the cause register, and masking its top bit off is the remainder modulo
`2^(XLEN-1)`. -/
theorem causeBitsAndCode : Obligations.CauseBitsAndCode := by
  intro s arg
  refine ⟨decode_of_eq_headerOf (decode_mcauseBits arg) (by decide),
    decode_of_eq_headerOf (decode_mcauseCode arg) (by decide), ?bits, ?code⟩
  case bits => exact ⟨_, exec_mcauseBits s, rfl, rfl, s.onlyReports_doneCsrRead ..⟩
  case code =>
    exact ⟨_, _, exec_mcauseCode s, rfl, causeCode_toNat s.cfg.xlen s.mcause, rfl, s.onlyReports_doneCsrRead ..⟩

/-- Settles O23: both tests answer from the top bit of the one register read, the second with its complement, and the
cause word's place against `2^(XLEN-1)` fixes that bit. -/
theorem causeKindsAreExclusiveAndExhaustive : Obligations.CauseKindsAreExclusiveAndExhaustive := by
  intro s arg hfits
  refine ⟨decode_of_eq_headerOf (decode_mcauseIsInterrupt arg) (by decide),
    decode_of_eq_headerOf (decode_mcauseIsException arg) (by decide), _, _, exec_mcauseIsInterrupt s,
    exec_mcauseIsException s, rfl, rfl, s.onlyReports_doneCsrRead .., s.onlyReports_doneCsrRead ..,
    fun hge => ?interrupt, fun hlt => ?exception⟩
  case interrupt =>
    rw [causeIsInterrupt_of_ge hfits hge]
    exact ⟨rfl, rfl⟩
  case exception =>
    rw [causeIsInterrupt_of_lt hlt]
    exact ⟨rfl, rfl⟩

end Machine

end Sys2Proof
end

section
/-! SUPPORT. `MTVEC_ADDRESS` and `MTVT_WRITE` of the vector decoders (R88, R92 of 43_trap_vector.md): which headers they
have, what each does, and that an address rounded down to the table's alignment stays native. -/

namespace Sys2Proof

theorem decode_mtvecAddress (arg : Word) : decode ⟨headerOf false 0x18 0, arg⟩ = .ok .mtvecAddress := by
  simp [decode, decodePlain]

theorem decode_mtvtWrite (addr : Word) : decode ⟨headerOf false 0x1C 0, addr⟩ = .ok (.mtvtWrite addr) := by
  simp [decode, decodePlain]

theorem tablePack_toNat_le (addr : Word) : (tablePack addr).toNat ≤ addr.toNat := by
  rw [tablePack_toNat]
  exact Nat.mul_div_le _ _

namespace Machine

theorem State.fits_tablePack {s : State} {addr : Word} (h : s.fits addr) : s.fits (tablePack addr) :=
  (tablePack_toNat_le addr).trans_lt h

/-- A register written with a native word then holds that word. -/
theorem State.csr_doneCsrWrite_same {s : State} (r : Csr) {v : Word} (h : s.fits v) :
    (s.doneCsrWrite r v).csr r = v := by
  have hfit : s.cfg.xlen.fit v = v := Xlen.fit_of_lt h
  cases r <;> exact hfit

/-! ## The two operations -/

theorem exec_mtvecAddress (s : State) :
    exec .mtvecAddress s = .next (s.doneCsrRead .mtvec (vecAddress s.mtvec) true) := rfl

theorem exec_mtvtWrite_of_fits {s : State} {addr : Word} (h : s.fits addr) :
    exec (.mtvtWrite addr) s = .next (s.doneCsrWrite .mtvt (tablePack addr)) := by
  simp only [exec, execMtvtWrite, State.operand_of_fits h]

/-! ## The statements -/

/-- Settles O27: `MTVEC_ADDRESS` is one read of the trap-vector register, and masking its low 2 bits off rounds it down
to a multiple of 4; the configuration is not consulted. -/
theorem trapVectorAddressClearsTheModeBits : Obligations.TrapVectorAddressClearsTheModeBits := by
  intro s arg
  exact ⟨decode_of_eq_headerOf (decode_mtvecAddress arg) (by decide), _, _, exec_mtvecAddress s, rfl,
    vecAddress_toNat s.mtvec, rfl, s.onlyReports_doneCsrRead ..⟩

/-- Settles O31: a native address rounded down is native, so `MTVT_WRITE` is one write that stores it whole, and a
register write changes no other cell. -/
theorem tableBaseWriteTruncatesSilently : Obligations.TableBaseWriteTruncatesSilently := by
  intro s addr hfits
  have hpack : s.fits (tablePack addr) := State.fits_tablePack hfits
  have hmtvt : (s.doneCsrWrite .mtvt (tablePack addr)).mtvt = tablePack addr :=
    State.csr_doneCsrWrite_same .mtvt hpack
  obtain ⟨hbus, hmem, hsetting, hconstructed, hdraws, hother⟩ := s.accessed_doneCsrWrite .mtvt hpack
  refine ⟨decode_of_eq_headerOf (decode_mtvtWrite addr) (by decide), _, exec_mtvtWrite_of_fits hfits, ?_, rfl,
    hbus, hmem, hsetting, hother .mcause (by decide), hother .mtvec (by decide), hconstructed, hdraws⟩
  rw [hmtvt, tablePack_toNat]

end Machine

end Sys2Proof
end

section
/-! SUPPORT. The decoder against the encoder and the mask table (R49 to R53 of 30_encoding.md): decoding inverts
encoding, the operand word of a command only fills in an operand, and a header decodes exactly when a row matches. -/

namespace Sys2Proof

/-! ## Decoding inverts encoding -/

/-- The same operation with another operand word, where the operation has one (R49, R55). -/
def Instr.withOperandWord (a : Word) : Instr → Instr
  | .setLevel id _ => .setLevel id a
  | .idTryFrom _ => .idTryFrom a
  | .mtvecWrite _ mode => .mtvecWrite a mode
  | .mtvtWrite _ => .mtvtWrite a
  | i => i

/-- The header of an operation with any operand word decodes to that operation, the operand word filled in. -/
theorem decode_encode_hdr (i : Instr) (a : Word) : decode ⟨(encode i).hdr, a⟩ = .ok (i.withOperandWord a) := by
  cases i
  case mtvecWrite _ mode =>
    cases mode <;> simp [encode, decode, decodeWithMode, TrapMode.bit, Instr.withOperandWord]
  all_goals simp [encode, decode, decodePlain, decodeWithId, Instr.withOperandWord]

/-- The encoder puts an operation's operand word into the command. -/
theorem withOperandWord_encode_arg (i : Instr) : i.withOperandWord (encode i).arg = i := by
  cases i <;> rfl

theorem mnemonic_withOperandWord (i : Instr) (a : Word) : (i.withOperandWord a).mnemonic = i.mnemonic := by
  cases i <;> rfl

/-- Only four operations have an operand word. -/
theorem withOperandWord_of_unused {i : Instr} (a : Word)
    (h : i.mnemonic ∉ ["SET_LEVEL", "ID_TRY_FROM", "MTVEC_WRITE", "MTVT_WRITE"]) : i.withOperandWord a = i := by
  cases i
  case setLevel => simp [Instr.mnemonic] at h
  case idTryFrom => simp [Instr.mnemonic] at h
  case mtvecWrite => simp [Instr.mnemonic] at h
  case mtvtWrite => simp [Instr.mnemonic] at h
  all_goals rfl

/-- Settles O1: the header decodes to the operation with the command's operand word, which is the operation's own. -/
theorem decodeOfEncodeIsTheInstruction : Obligations.DecodeOfEncodeIsTheInstruction := by
  intro i
  have h := decode_encode_hdr i (encode i).arg
  rwa [withOperandWord_encode_arg] at h

/-! ## Encoding inverts decoding, a shape of row at a time -/

theorem Command.hdr_eq_headerOf {c : Command} {m : Bool} {op : BitVec 5} {id : BitVec 10} (hm : c.modeBit = m)
    (hop : c.op.toNat = op.toNat) (hid : c.id = id) : headerOf m op id = c.hdr := by
  rw [← hm, ← BitVec.eq_of_toNat_eq hop, ← hid, c.headerOf_fields]

/-- A row with `id` an operand: mask 0xFC00. -/
theorem encode_hdr_of_decodeWithId {c : Command} {f : BitVec 10 → Instr} {i : Instr} {op : BitVec 5}
    (hop : c.op.toNat = op.toNat) (hf : ∀ id, (encode (f id)).hdr = headerOf false op id)
    (h : decodeWithId c f = .ok i) : (encode i).hdr = c.hdr := by
  unfold decodeWithId at h
  split at h
  case isTrue => cases h
  case isFalse hm => cases h; exact (hf _).trans (Command.hdr_eq_headerOf (Bool.eq_false_iff.mpr hm) hop rfl)

/-- A row with no operand in the header: mask 0xFFFF. -/
theorem encode_hdr_of_decodePlain {c : Command} {i j : Instr} {op : BitVec 5}
    (hop : c.op.toNat = op.toNat) (hf : (encode j).hdr = headerOf false op 0)
    (h : decodePlain c j = .ok i) : (encode i).hdr = c.hdr := by
  unfold decodePlain at h
  split at h
  case isTrue => cases h
  case isFalse hm =>
    split at h
    case isTrue hid => cases h; exact hf.trans (Command.hdr_eq_headerOf (Bool.eq_false_iff.mpr hm) hop hid)
    case isFalse => cases h

/-- The row with `m` an operand: mask 0x7FFF. -/
theorem encode_hdr_of_decodeWithMode {c : Command} {f : TrapMode → Instr} {i : Instr} {op : BitVec 5}
    (hop : c.op.toNat = op.toNat) (hf : ∀ mode, (encode (f mode)).hdr = headerOf mode.bit op 0)
    (h : decodeWithMode c f = .ok i) : (encode i).hdr = c.hdr := by
  unfold decodeWithMode at h
  split at h
  case isTrue hid =>
    cases h
    exact (hf _).trans (Command.hdr_eq_headerOf (by cases c.modeBit <;> rfl) hop hid)
  case isFalse => cases h

/-- A header that decodes is the header its operation encodes to. -/
theorem encode_hdr_of_decode {c : Command} {i : Instr} (h : decode c = .ok i) : (encode i).hdr = c.hdr := by
  unfold decode at h
  split at h
  next hop => exact encode_hdr_of_decodePlain (op := 0x01) hop rfl h
  next hop => exact encode_hdr_of_decodeWithId (op := 0x02) hop (fun _ => rfl) h
  next hop => exact encode_hdr_of_decodeWithId (op := 0x03) hop (fun _ => rfl) h
  next hop => exact encode_hdr_of_decodeWithId (op := 0x04) hop (fun _ => rfl) h
  next hop => exact encode_hdr_of_decodeWithId (op := 0x05) hop (fun _ => rfl) h
  next hop => exact encode_hdr_of_decodeWithId (op := 0x06) hop (fun _ => rfl) h
  next hop => exact encode_hdr_of_decodeWithId (op := 0x07) hop (fun _ => rfl) h
  next hop => exact encode_hdr_of_decodeWithId (op := 0x08) hop (fun _ => rfl) h
  next hop => exact encode_hdr_of_decodeWithId (op := 0x09) hop (fun _ => rfl) h
  next hop => exact encode_hdr_of_decodeWithId (op := 0x0A) hop (fun _ => rfl) h
  next hop => exact encode_hdr_of_decodePlain (op := 0x0B) hop rfl h
  next hop => exact encode_hdr_of_decodePlain (op := 0x10) hop rfl h
  next hop => exact encode_hdr_of_decodePlain (op := 0x11) hop rfl h
  next hop => exact encode_hdr_of_decodePlain (op := 0x12) hop rfl h
  next hop => exact encode_hdr_of_decodePlain (op := 0x13) hop rfl h
  next hop => exact encode_hdr_of_decodePlain (op := 0x14) hop rfl h
  next hop => exact encode_hdr_of_decodePlain (op := 0x15) hop rfl h
  next hop => exact encode_hdr_of_decodePlain (op := 0x16) hop rfl h
  next hop => exact encode_hdr_of_decodePlain (op := 0x17) hop rfl h
  next hop => exact encode_hdr_of_decodePlain (op := 0x18) hop rfl h
  next hop => exact encode_hdr_of_decodePlain (op := 0x19) hop rfl h
  next hop => exact encode_hdr_of_decodeWithMode (op := 0x1A) hop (fun _ => rfl) h
  next hop => exact encode_hdr_of_decodePlain (op := 0x1B) hop rfl h
  next hop => exact encode_hdr_of_decodePlain (op := 0x1C) hop rfl h
  next => cases h

/-- Settles O2: no bit of a decoded header is lost, since its three fields are the operation's own. -/
theorem encodeOfDecodeIsTheHeader : Obligations.EncodeOfDecodeIsTheHeader := fun _ _ => encode_hdr_of_decode

/-- With another operand word a header decodes to the same operation, that word filled in. -/
theorem decode_other_arg {h : BitVec 16} {a b : Word} {i : Instr} (hd : decode ⟨h, a⟩ = .ok i) :
    decode ⟨h, b⟩ = .ok (i.withOperandWord b) := by
  have hh : (encode i).hdr = h := encode_hdr_of_decode hd
  rw [← hh, decode_encode_hdr]

/-- Settles O4: another operand word is filled in only where the operation has one. -/
theorem operandWordIsIgnoredWhereUnused : Obligations.OperandWordIsIgnoredWhereUnused := by
  intro h a b i hd hmn
  rw [decode_other_arg hd, withOperandWord_of_unused b hmn]

/-! ## The mask table -/

/-- Every operation's header matches the row of its mnemonic. -/
theorem encode_matches_row (i : Instr) : Laws.EncodedInItsRow.Statement i := by
  cases i with
  | construct => exact Laws.EncodedInItsRow.construct
  | mask id => exact Laws.EncodedInItsRow.mask id
  | unmask id => exact Laws.EncodedInItsRow.unmask id
  | isEnabled id => exact Laws.EncodedInItsRow.isEnabled id
  | pend id => exact Laws.EncodedInItsRow.pend id
  | unpend id => exact Laws.EncodedInItsRow.unpend id
  | isPending id => exact Laws.EncodedInItsRow.isPending id
  | setLevel id level => exact Laws.EncodedInItsRow.setLevel id level
  | getLevel id => exact Laws.EncodedInItsRow.getLevel id
  | idNumber id => exact Laws.EncodedInItsRow.idNumber id
  | idTryFrom code => exact Laws.EncodedInItsRow.idTryFrom code
  | mcauseBits => exact Laws.EncodedInItsRow.mcauseBits
  | mcauseCode => exact Laws.EncodedInItsRow.mcauseCode
  | mcauseIsInterrupt => exact Laws.EncodedInItsRow.mcauseIsInterrupt
  | mcauseIsException => exact Laws.EncodedInItsRow.mcauseIsException
  | mcauseCause => exact Laws.EncodedInItsRow.mcauseCause
  | mcauseMpie => exact Laws.EncodedInItsRow.mcauseMpie
  | mcauseMpp => exact Laws.EncodedInItsRow.mcauseMpp
  | mcauseMinhv => exact Laws.EncodedInItsRow.mcauseMinhv
  | mtvecAddress => exact Laws.EncodedInItsRow.mtvecAddress
  | mtvecTrapMode => exact Laws.EncodedInItsRow.mtvecTrapMode
  | mtvecWrite addr mode => exact Laws.EncodedInItsRow.mtvecWrite addr mode
  | mtvtAddress => exact Laws.EncodedInItsRow.mtvtAddress
  | mtvtWrite addr => exact Laws.EncodedInItsRow.mtvtWrite addr

/-- What decodes matches a row of its mnemonic. -/
theorem matches_row_of_decode {c : Command} {i : Instr} (h : decode c = .ok i) :
    ∃ r ∈ opcodeRows, r.mnemonic = i.mnemonic ∧ r.matches c.hdr = true :=
  encode_hdr_of_decode h ▸ encode_matches_row i

/-- Every header a row matches is the header of an operation. -/
def OpcodeRow.Encodes (r : OpcodeRow) : Prop :=
  ∀ c : Command, r.matches c.hdr = true → ∃ i, (encode i).hdr = c.hdr

theorem OpcodeRow.encodes_withId {n : String} {p : BitVec 16} {o : BitVec 5} (f : BitVec 10 → Instr)
    (hf : ∀ id, (encode (f id)).hdr = headerOf false o id) (hp : p = headerOf false o 0) :
    (OpcodeRow.mk n p 0xFC00).Encodes := by
  intro c h
  rw [← c.headerOf_fields, OpcodeRow.matches_withId hp] at h
  obtain ⟨hm, hop⟩ := h
  exact ⟨f c.id, (hf _).trans (Command.hdr_eq_headerOf hm (congrArg _ hop) rfl)⟩

theorem OpcodeRow.encodes_plain {n : String} {p : BitVec 16} {o : BitVec 5} (i : Instr)
    (hf : (encode i).hdr = headerOf false o 0) (hp : p = headerOf false o 0) :
    (OpcodeRow.mk n p 0xFFFF).Encodes := by
  intro c h
  rw [← c.headerOf_fields, OpcodeRow.matches_plain hp] at h
  obtain ⟨hm, hop, hid⟩ := h
  exact ⟨i, hf.trans (Command.hdr_eq_headerOf hm (congrArg _ hop) hid)⟩

theorem OpcodeRow.encodes_withMode {n : String} {p : BitVec 16} {o : BitVec 5} (f : TrapMode → Instr)
    (hf : ∀ mode, (encode (f mode)).hdr = headerOf mode.bit o 0) (hp : p = headerOf false o 0) :
    (OpcodeRow.mk n p 0x7FFF).Encodes := by
  intro c h
  rw [← c.headerOf_fields, OpcodeRow.matches_withMode hp] at h
  obtain ⟨hop, hid⟩ := h
  exact ⟨f (if c.modeBit then .vectored else .direct),
    (hf _).trans (Command.hdr_eq_headerOf (by cases c.modeBit <;> rfl) (congrArg _ hop) hid)⟩

theorem memoryRows_encode : ∀ r ∈ memoryRows, r.Encodes := by
  simp only [memoryRows, List.forall_mem_cons]
  exact ⟨OpcodeRow.encodes_plain .construct rfl (by decide),
    OpcodeRow.encodes_withId .mask (fun _ => rfl) (by decide),
    OpcodeRow.encodes_withId .unmask (fun _ => rfl) (by decide),
    OpcodeRow.encodes_withId .isEnabled (fun _ => rfl) (by decide),
    OpcodeRow.encodes_withId .pend (fun _ => rfl) (by decide),
    OpcodeRow.encodes_withId .unpend (fun _ => rfl) (by decide),
    OpcodeRow.encodes_withId .isPending (fun _ => rfl) (by decide),
    OpcodeRow.encodes_withId (.setLevel · 0) (fun _ => rfl) (by decide),
    OpcodeRow.encodes_withId .getLevel (fun _ => rfl) (by decide),
    OpcodeRow.encodes_withId .idNumber (fun _ => rfl) (by decide),
    OpcodeRow.encodes_plain (.idTryFrom 0) rfl (by decide), nofun⟩

theorem csrRows_encode : ∀ r ∈ csrRows, r.Encodes := by
  simp only [csrRows, List.forall_mem_cons]
  exact ⟨OpcodeRow.encodes_plain .mcauseBits rfl (by decide),
    OpcodeRow.encodes_plain .mcauseCode rfl (by decide),
    OpcodeRow.encodes_plain .mcauseIsInterrupt rfl (by decide),
    OpcodeRow.encodes_plain .mcauseIsException rfl (by decide),
    OpcodeRow.encodes_plain .mcauseCause rfl (by decide),
    OpcodeRow.encodes_plain .mcauseMpie rfl (by decide),
    OpcodeRow.encodes_plain .mcauseMpp rfl (by decide),
    OpcodeRow.encodes_plain .mcauseMinhv rfl (by decide),
    OpcodeRow.encodes_plain .mtvecAddress rfl (by decide),
    OpcodeRow.encodes_plain .mtvecTrapMode rfl (by decide),
    OpcodeRow.encodes_withMode (.mtvecWrite 0) (fun _ => rfl) (by decide),
    OpcodeRow.encodes_plain .mtvtAddress rfl (by decide),
    OpcodeRow.encodes_plain (.mtvtWrite 0) rfl (by decide), nofun⟩

/-- A header that a row matches decodes. -/
theorem decode_of_matches {c : Command} {r : OpcodeRow} (hr : r ∈ opcodeRows) (h : r.matches c.hdr = true) :
    ∃ i, decode c = .ok i := by
  have henc : r.Encodes := (List.mem_append.mp hr).elim (memoryRows_encode r) (csrRows_encode r)
  obtain ⟨i, hi⟩ := henc c h
  have hd := decode_encode_hdr i c.arg
  rw [hi] at hd
  exact ⟨_, hd⟩

/-- Every mask keeps the `op` field, so a header that matches a row has the row's `op`. -/
theorem OpcodeRow.op_of_matches {r : OpcodeRow} {h : BitVec 16} (hr : r ∈ opcodeRows) (hm : r.matches h = true) :
    h.extractLsb' 10 5 = r.pattern.extractLsb' 10 5 := by
  have hmask : ∀ r ∈ opcodeRows, r.mask.extractLsb' 10 5 = BitVec.allOnes 5 := by decide
  rw [← of_decide_eq_true hm, BitVec.extractLsb'_and, hmask r hr, BitVec.and_allOnes]

/-- No two rows share an `op`. -/
theorem opcodeRows_op_injective : ∀ r ∈ opcodeRows, ∀ q ∈ opcodeRows,
    r.pattern.extractLsb' 10 5 = q.pattern.extractLsb' 10 5 → r = q := by
  decide

/-- Settles O3: decoding and the table meet in the encoder, the rows differ in `op`, and another operand word is only
filled in. -/
theorem decodingFollowsTheOperationTable : Obligations.DecodingFollowsTheOperationTable := by
  refine ⟨fun c i => matches_row_of_decode, fun c e he r hr => ?reserved, fun h r hr q hq hmr hmq => ?disjoint,
    fun h a b i hd => ⟨_, decode_other_arg hd, mnemonic_withOperandWord i b⟩⟩
  case reserved =>
    by_contra hm
    obtain ⟨i, hi⟩ := decode_of_matches hr (Bool.not_eq_false _ ▸ hm)
    rw [he] at hi
    cases hi
  case disjoint =>
    exact opcodeRows_op_injective r hr q hq
      ((OpcodeRow.op_of_matches hr hmr).symm.trans (OpcodeRow.op_of_matches hq hmq))

/-- Settles O5, by running the decoder on each header. -/
theorem writtenOutCommandsDecode : Obligations.WrittenOutCommandsDecode := by
  unfold Obligations.WrittenOutCommandsDecode
  decide

end Sys2Proof
end

section
/-! SUPPORT. What one step can do (R14, R107): every input performs an operation, only reports, stores bytes of mapped
cells, writes one control register or resets the block. The statements about all steps follow from that one case
split; the invariant of R5, R6, R38 and R48 needs besides that each operation's result is a native word. -/

namespace Sys2Proof.Machine

/-! ## One input -/

theorem csrOfNumber_eq_some {num : BitVec 12} {r : Csr} (h : csrOfNumber num = some r) : num = r.number := by
  unfold csrOfNumber at h
  split at h
  case isTrue hn => cases h; exact hn
  case isFalse =>
    split at h
    case isTrue hn => cases h; exact hn
    case isFalse =>
      split at h
      case isTrue hn => cases h; exact hn
      case isFalse => cases h

@[simp] theorem csrOfNumber_number (r : Csr) : csrOfNumber r.number = some r := by cases r <;> rfl

/-- What one input can do, said once. -/
theorem State.receive_next_cases {s t : State} {inp : Input} (h : s.receive inp = .next t) :
    (∃ c i, inp = .command c ∧ decode c = .ok i ∧ exec i s = .next t) ∨
    (∃ o x, (∀ res ok, o ≠ .done res ok) ∧ t = s.report o x) ∨
    (∃ a n v x, (∀ b, a ≤ b → b < a + n → s.cfg.mapped b = true) ∧ t = (s.putBytes a n v).report .none x) ∨
    (∃ r v x, (inp = .csrWrite r.number v ∨ r = .mcause ∧ inp = .trapCause v) ∧ t = (s.putCsr r v).report .none x) ∨
    (inp = .reset ∧ t = s.externalReset) := by
  cases inp with
  | command c =>
    obtain ⟨i, hd, he⟩ := State.perform_next.mp h
    exact .inl ⟨c, i, rfl, hd, he⟩
  | trapCause v =>
    cases h
    exact .inr (.inr (.inr (.inl ⟨.mcause, v, _, .inr ⟨rfl, rfl⟩, rfl⟩)))
  | counter v =>
    cases h
    exact .inr (.inr (.inl ⟨_, _, _, _, fun b => Config.mtime_mapped, rfl⟩))
  | memRead addr n =>
    obtain ⟨-, rfl⟩ := State.rawRead_next.mp h
    exact .inr (.inl ⟨_, _, by simp, rfl⟩)
  | memWrite addr n v =>
    obtain ⟨hadm, rfl⟩ := State.rawWrite_next.mp h
    exact .inr (.inr (.inl ⟨_, _, _, _, fun b => Config.admits_mapped hadm, rfl⟩))
  | csrRead num =>
    obtain ⟨r, -, rfl⟩ := State.rawCsrRead_next.mp h
    exact .inr (.inl ⟨_, _, by simp, rfl⟩)
  | csrWrite num v =>
    obtain ⟨r, hr, rfl⟩ := State.rawCsrWrite_next.mp h
    obtain rfl := csrOfNumber_eq_some hr
    exact .inr (.inr (.inr (.inl ⟨r, v, _, .inl rfl, rfl⟩)))
  | reset =>
    cases h
    exact .inr (.inr (.inr (.inr ⟨rfl, rfl⟩)))

/-- Where the input is refused, the run goes on with the outputs cleared and the input gone. -/
theorem State.proceed_of_refused {s : State} {r : Refusal} (h : step s = .refused r) :
    s.proceed = { s with inputs := s.inputs.tail }.idle := by
  simp [State.proceed, h]

/-- Where the oldest input is refused, the run goes on with every cell as it was. -/
theorem State.onlyReports_proceed_of_refused {s : State} {inp : Input} {rest : List Input} {r : Refusal}
    (hin : s.inputs = inp :: rest) (h : step s = .refused r) : { s with inputs := rest }.OnlyReports s.proceed := by
  rw [State.proceed_of_refused h, hin]
  exact State.onlyReports_report _ _ _

/-- A step on a waiting command that decodes is that operation. -/
theorem step_command {s : State} {c : Command} {rest : List Input} {i : Instr} (hin : s.inputs = .command c :: rest)
    (hd : decode c = .ok i) : step s = exec i { s with inputs := rest } := by
  simp [step_cons hin, State.receive, State.perform, hd]

/-- A step on a waiting command that does not decode is refused. -/
theorem step_reserved {s : State} {c : Command} {rest : List Input} {e : Reserved}
    (hin : s.inputs = .command c :: rest) (hd : decode c = .error e) : step s = .refused .reservedEncoding := by
  simp [step_cons hin, State.receive, State.perform, hd]

/-- Every accessor is refused while the handle is Unconstructed (R70 a). -/
theorem exec_of_not_constructed {i : Instr} {s : State} (hi : i.needsHandle = true) (hc : s.constructed = false) :
    exec i s = .refused .notConstructed := by
  cases i <;> cases hi
  all_goals exact State.throughHandle_of_not_constructed hc _

/-- Settles O6: the step function takes the oldest input, and the idle step is a report. -/
theorem stepPerformsTheDecodedCommand : Obligations.StepPerformsTheDecodedCommand := by
  refine ⟨fun s c rest i => step_command, fun s inp rest => step_cons, fun s hs => ⟨s.idle, ?_, rfl, rfl, ?_⟩⟩
  · simp [step, hs]
  · exact s.onlyReports_report _ _

/-- Settles O7: what matches no row does not decode, since what decodes matches its row. -/
theorem reservedCommandIsRefusedWithNoChange : Obligations.ReservedCommandIsRefusedWithNoChange := by
  intro s c rest hin hrows
  have hstep : step s = .refused .reservedEncoding := by
    cases hd : decode c with
    | error e => exact step_reserved hin hd
    | ok i =>
      obtain ⟨r, hr, -, hm⟩ := matches_row_of_decode hd
      exact absurd hm (Bool.eq_false_iff.mp (hrows r hr))
  exact ⟨hstep, State.onlyReports_proceed_of_refused hin hstep⟩

/-- Settles O14: the accessor is refused by its common condition, and a refusal keeps every cell. -/
theorem accessorsAreRefusedBeforeConstruction : Obligations.AccessorsAreRefusedBeforeConstruction := by
  intro s c rest i hin hd hi hc
  have hstep : step s = .refused .notConstructed := by
    rw [step_command hin hd]
    exact exec_of_not_constructed hi hc
  exact ⟨hstep, State.onlyReports_proceed_of_refused hin hstep⟩

/-! ## What no operation changes -/

theorem exec_mcause {i : Instr} {s t : State} (h : exec i s = .next t) : t.mcause = s.mcause := by
  rcases exec_next_cases h with ⟨_, _, _, rfl⟩ | ⟨_, rfl⟩ | ⟨_, _, _, rfl⟩ | ⟨_, _, _, rfl⟩ | ⟨_, _, _, _, rfl⟩ |
    ⟨_, _, _, _, rfl⟩ | ⟨_, _, _, _, rfl⟩ | ⟨_, _, _, _, rfl⟩ | ⟨_, _, rfl⟩ <;> simp

/-- Only `CONSTRUCT` changes the handle's bit, and it sets it. -/
theorem exec_constructed {i : Instr} {s t : State} (h : exec i s = .next t) :
    t.constructed = s.constructed ∨ (i = .construct ∧ t.constructed = true) := by
  rcases exec_next_cases h with ⟨_, _, _, rfl⟩ | ⟨rfl, rfl⟩ | ⟨_, _, _, rfl⟩ | ⟨_, _, _, rfl⟩ | ⟨_, _, _, _, rfl⟩ |
    ⟨_, _, _, _, rfl⟩ | ⟨_, _, _, _, rfl⟩ | ⟨_, _, _, _, rfl⟩ | ⟨_, _, rfl⟩ <;> simp

/-- Settles O43: operations keep their setting, and no other input writes a parameter. -/
theorem parametersNeverChange : Obligations.ParametersNeverChange := by
  intro s t h
  obtain ⟨-, rfl⟩ | ⟨inp, rest, -, h⟩ := step_next h
  · rfl
  obtain ⟨c, i, -, -, he⟩ | ⟨o, x, -, rfl⟩ | ⟨a, n, v, x, -, rfl⟩ | ⟨r, v, x, -, rfl⟩ | ⟨-, rfl⟩ :=
    State.receive_next_cases h
  case inl => exact (exec_next_setting he).1
  all_goals simp

/-- What a step does to the handle's bit: keep it, set it by a `CONSTRUCT`, or clear it by a reset. -/
theorem step_constructed {s t : State} (h : step s = .next t) :
    t.constructed = s.constructed ∨
    (t.constructed = true ∧ ∃ c rest, s.inputs = .command c :: rest ∧ decode c = .ok .construct) ∨
    (t.constructed = false ∧ ∃ rest, s.inputs = .reset :: rest) := by
  obtain ⟨-, rfl⟩ | ⟨inp, rest, hin, h⟩ := step_next h
  · exact .inl rfl
  obtain ⟨c, i, rfl, hd, he⟩ | ⟨o, x, -, rfl⟩ | ⟨a, n, v, x, -, rfl⟩ | ⟨r, v, x, -, rfl⟩ | ⟨rfl, rfl⟩ :=
    State.receive_next_cases h
  · obtain hsame | ⟨rfl, htrue⟩ := exec_constructed he
    · exact .inl hsame
    · exact .inr (.inl ⟨htrue, c, rest, hin, hd⟩)
  · exact .inl rfl
  · exact .inl (by simp)
  · exact .inl (by simp)
  · exact .inr (.inr ⟨rfl, rest, hin⟩)

/-- Settles O44, reading each direction off what a step does to the handle's bit. -/
theorem handleStateChangesOnlyByConstructAndReset : Obligations.HandleStateChangesOnlyByConstructAndReset := by
  intro s t h
  obtain hsame | ⟨htrue, hin⟩ | ⟨hfalse, hin⟩ := step_constructed h
  · exact ⟨fun hf ht => by simp [hsame, hf] at ht, fun ht hf => by simp [hsame, ht] at hf⟩
  · exact ⟨fun _ _ => hin, fun _ hf => by simp [htrue] at hf⟩
  · exact ⟨fun _ ht => by simp [hfalse] at ht, fun _ _ => hin⟩

/-- Settles O45: no operation writes the cause register, and of the other inputs only its writers and the reset do. -/
theorem onlyTheEnvironmentWritesTheCause : Obligations.OnlyTheEnvironmentWritesTheCause := by
  intro s t h hne
  obtain ⟨-, rfl⟩ | ⟨inp, rest, hin, h⟩ := step_next h
  · exact absurd rfl hne
  obtain ⟨c, i, -, -, he⟩ | ⟨o, x, -, rfl⟩ | ⟨a, n, v, x, -, rfl⟩ | ⟨r, v, x, hinp, rfl⟩ | ⟨rfl, -⟩ :=
    State.receive_next_cases h
  · exact absurd (exec_mcause he) hne
  · exact absurd rfl hne
  · exact absurd (by simp) hne
  · by_cases hr : r = .mcause
    · subst hr
      rcases hinp with rfl | ⟨-, rfl⟩
      · exact .inr (.inl ⟨v, rest, hin⟩)
      · exact .inl ⟨v, rest, hin⟩
    · exact absurd (by simp [hr]) hne
  · exact .inr (.inr ⟨rest, hin⟩)

/-! ## The invariant -/

/-- The parts of the invariant that no output enters: parameters, memory and control registers. -/
abbrev State.CellsInv (s : State) : Prop :=
  s.cfg.wf = true ∧ s.mem.wf = true ∧ (∀ c ∈ s.mem, s.cfg.mapped c.1 = true) ∧
  s.fits s.mcause ∧ s.fits s.mtvec ∧ s.fits s.mtvt

theorem State.inv_iff {s : State} : s.Inv ↔ s.CellsInv ∧ s.resultFits := by
  simp only [State.Inv, State.CellsInv, and_assoc]

/-- Storing mapped bytes keeps memory canonical and inside the maps. -/
theorem State.CellsInv.putBytes {s : State} {a n : Nat} (v : Nat) (h : s.CellsInv)
    (hmap : ∀ b, a ≤ b → b < a + n → s.cfg.mapped b = true) : (s.putBytes a n v).CellsInv := by
  obtain ⟨hcfg, hwf, hmem, hcsrs⟩ := h
  refine ⟨by simpa using hcfg, s.wf_putBytes a n v hwf, fun c hc => ?_, by simpa [State.fits] using hcsrs⟩
  rw [State.putBytes_cfg]
  rcases State.mem_putBytes hc with ⟨hlo, hhi⟩ | hold
  · exact hmap _ hlo hhi
  · exact hmem c hold

theorem State.CellsInv.doneStore {s : State} {a : Nat} (v : Byte) (h : s.CellsInv) (hmap : s.cfg.mapped a = true) :
    (s.doneStore a v).CellsInv := by
  have hone : s.putByte a v = s.putBytes a 1 v.toNat := by simp [State.putBytes]
  have hput : (s.putByte a v).CellsInv := by
    rw [hone]
    exact h.putBytes _ fun b hlo hhi => by rwa [show b = a by omega]
  exact hput

/-- A register write cuts the word to the native width. -/
theorem State.CellsInv.putCsr {s : State} (r : Csr) (v : Word) (h : s.CellsInv) : (s.putCsr r v).CellsInv := by
  obtain ⟨hcfg, hwf, hmem, hmcause, hmtvec, hmtvt⟩ := h
  have hfit : s.fits (s.cfg.xlen.fit v) := Xlen.fit_lt _ _
  cases r
  · exact ⟨hcfg, hwf, hmem, hfit, hmtvec, hmtvt⟩
  · exact ⟨hcfg, hwf, hmem, hmcause, hfit, hmtvt⟩
  · exact ⟨hcfg, hwf, hmem, hmcause, hmtvec, hfit⟩

/-- After a reset nothing is written and the free contents are cut to the native width. -/
theorem State.inv_afterReset {c : Config} (k d : Nat) (waiting : List Input) (h : c.wf = true) :
    (State.afterReset c k d waiting).Inv :=
  ⟨h, Memory.wf_nil, nofun, Xlen.fit_lt _ _, Xlen.fit_lt _ _, Xlen.fit_lt _ _, trivial⟩

/-- Settles O41, the reference platform being one that keeps the constraints. -/
theorem invariantHoldsAfterReset : Obligations.InvariantHoldsAfterReset :=
  ⟨State.inv_afterReset 0 0 [] (by decide), fun _ k d waiting => State.inv_afterReset k d waiting⟩

/-- An operation keeps the cells' part: each of its writes is of a mapped byte or of one register. -/
theorem State.CellsInv.exec {i : Instr} {s t : State} (h : s.CellsInv) (he : exec i s = .next t) : t.CellsInv := by
  rcases exec_next_cases he with ⟨_, _, _, rfl⟩ | ⟨_, rfl⟩ | ⟨_, _, _, rfl⟩ | ⟨_, _, _, rfl⟩ | ⟨_, _, _, _, rfl⟩ |
    ⟨_, _, _, _, rfl⟩ | ⟨_, _, _, _, rfl⟩ | ⟨_, _, _, _, rfl⟩ | ⟨_, _, rfl⟩
  · exact h
  · exact h.doneStore _ s.cfg.gcfgAddr_mapped
  · exact h.doneStore _ (s.cfg.enabAddr_mapped _)
  · exact h.doneStore _ (s.cfg.enabAddr_mapped _)
  · exact h.doneStore _ (s.cfg.pendAddr_mapped _)
  · exact h.doneStore _ (s.cfg.pendAddr_mapped _)
  · exact State.CellsInv.doneStore (s := s.drawn) _ h (s.cfg.cfgAddr_mapped _)
  · exact h.putCsr .mtvec _
  · exact h.putCsr .mtvt _

/-! ## Results are native words -/

/-- Every width holds 32 bits. -/
theorem State.fits_of_lt {s : State} {w : Word} (h : w.toNat < 2 ^ 32) : s.fits w :=
  h.trans_le s.cfg.xlen.pow_ge

theorem State.fits_of_le {s : State} {v w : Word} (hw : s.fits w) (h : v.toNat ≤ w.toNat) : s.fits v :=
  h.trans_lt hw

theorem State.fits_boolWord (s : State) (b : Bool) : s.fits (boolWord b) :=
  State.fits_of_lt (by cases b <;> decide)

theorem State.fits_setWidth {n : Nat} (s : State) (b : BitVec n) (hn : n ≤ 32) : s.fits (b.setWidth 128) := by
  refine State.fits_of_lt ?_
  rw [BitVec.toNat_setWidth_of_le (by omega)]
  exact b.isLt.trans_le (Nat.pow_le_pow_right (by decide) hn)

theorem CauseTag.encoding_lt (t : CauseTag) : t.encoding.toNat < 2 ^ 32 := by
  rcases t with t | t <;> cases t <;> decide

theorem causeCode_toNat_le (x : Xlen) (w : Word) : (causeCode x w).toNat ≤ w.toNat := by
  rw [causeCode_toNat]
  exact Nat.mod_le _ _

theorem vecAddress_toNat_le (w : Word) : (vecAddress w).toNat ≤ w.toNat := by
  rw [vecAddress_toNat]
  exact Nat.mul_div_le _ _

theorem tableAddress_toNat_le (w : Word) : (tableAddress w).toNat ≤ w.toNat := by
  rw [tableAddress_toNat]
  exact Nat.mul_div_le _ _

/-- From native registers every result is a native word. -/
theorem exec_resultFits {i : Instr} {s t : State} (h : exec i s = .next t) (hmcause : s.fits s.mcause)
    (hmtvec : s.fits s.mtvec) (hmtvt : s.fits s.mtvt) : t.resultFits := by
  have hzero : s.fits 0 := State.fits_of_lt (by decide)
  cases i with
  | construct => cases h; exact hzero
  | mask id => obtain ⟨-, rfl⟩ := State.throughHandle_next.mp h; exact hzero
  | unmask id => obtain ⟨-, rfl⟩ := State.throughHandle_next.mp h; exact hzero
  | isEnabled id => obtain ⟨-, rfl⟩ := State.throughHandle_next.mp h; exact s.fits_boolWord _
  | pend id => obtain ⟨-, rfl⟩ := State.throughHandle_next.mp h; split <;> exact hzero
  | unpend id => obtain ⟨-, rfl⟩ := State.throughHandle_next.mp h; split <;> exact hzero
  | isPending id => obtain ⟨-, rfl⟩ := State.throughHandle_next.mp h; exact s.fits_boolWord _
  | setLevel id level => obtain ⟨-, rfl⟩ := State.throughHandle_next.mp h; exact hzero
  | getLevel id => obtain ⟨-, rfl⟩ := State.throughHandle_next.mp h; exact s.fits_setWidth _ (by decide)
  | idNumber id =>
    simp only [Machine.exec, execIdNumber] at h
    split at h
    · cases h; exact s.fits_setWidth _ (by decide)
    · cases h
  | idTryFrom code => cases h; exact Xlen.fit_lt _ _
  | mcauseBits => cases h; exact hmcause
  | mcauseCode => cases h; exact State.fits_of_le hmcause (causeCode_toNat_le _ _)
  | mcauseIsInterrupt => cases h; exact s.fits_boolWord _
  | mcauseIsException => cases h; exact s.fits_boolWord _
  | mcauseCause => cases h; exact State.fits_of_lt (CauseTag.encoding_lt _)
  | mcauseMpie => obtain ⟨-, rfl⟩ := State.inExtended_next.mp h; exact s.fits_boolWord _
  | mcauseMpp => obtain ⟨-, rfl⟩ := State.inExtended_next.mp h; exact s.fits_setWidth _ (by decide)
  | mcauseMinhv => obtain ⟨-, rfl⟩ := State.inExtended_next.mp h; exact s.fits_boolWord _
  | mtvecAddress => cases h; exact State.fits_of_le hmtvec (vecAddress_toNat_le _)
  | mtvecTrapMode =>
    cases h
    split
    · exact s.fits_boolWord _
    · exact s.fits_setWidth _ (by decide)
  | mtvecWrite addr mode =>
    simp only [Machine.exec, execMtvecWrite] at h
    split at h
    · cases h
    · cases h; exact hzero
  | mtvtAddress => cases h; exact State.fits_of_le hmtvt (tableAddress_toNat_le _)
  | mtvtWrite addr => cases h; exact hzero

/-- An operation keeps the invariant. -/
theorem State.Inv.exec {i : Instr} {s t : State} (h : s.Inv) (he : exec i s = .next t) : t.Inv := by
  have hcells := (State.inv_iff.mp h).1
  obtain ⟨-, -, -, hmcause, hmtvec, hmtvt, -⟩ := h
  exact State.inv_iff.mpr ⟨hcells.exec he, exec_resultFits he hmcause hmtvec hmtvt⟩

/-- Settles O42: each thing an input can do keeps the invariant. -/
theorem everyStepKeepsTheInvariant : Obligations.EveryStepKeepsTheInvariant := by
  intro s t hinv h
  have hcells := (State.inv_iff.mp hinv).1
  obtain ⟨-, rfl⟩ | ⟨inp, rest, -, h⟩ := step_next h
  · exact State.inv_iff.mpr ⟨hcells, trivial⟩
  obtain ⟨c, i, -, -, he⟩ | ⟨o, x, ho, rfl⟩ | ⟨a, n, v, x, hmap, rfl⟩ | ⟨r, v, x, -, rfl⟩ | ⟨-, rfl⟩ :=
    State.receive_next_cases h
  case inl => exact State.Inv.exec (s := { s with inputs := rest }) hinv he
  case inr.inl =>
    refine State.inv_iff.mpr ⟨hcells, ?_⟩
    cases o with
    | none => trivial
    | done res ok => exact absurd rfl (ho res ok)
    | data v => trivial
  case inr.inr.inl =>
    exact State.inv_iff.mpr ⟨State.CellsInv.putBytes (s := { s with inputs := rest }) v hcells hmap, trivial⟩
  case inr.inr.inr.inl =>
    exact State.inv_iff.mpr ⟨State.CellsInv.putCsr (s := { s with inputs := rest }) r v hcells, trivial⟩
  case inr.inr.inr.inr => exact State.inv_afterReset _ _ _ hcells.1

end Sys2Proof.Machine
end

section
/-! SUPPORT. What each accessor stores, and which bytes an operation can change at all (R61 to R71 of
40_clic_accessors.md): the four writing families name four disjoint ranges of the block, so every frame statement is a
comparison of addresses. -/

namespace Sys2Proof

theorem levelByte_toNat_div (level low : BitVec 4) : (levelByte level low).toNat / 16 = level.toNat := by
  rw [← levelOf_toNat, levelOf_levelByte]

/-- Cutting a word to the native width keeps its low four bits. -/
theorem levelOperand_fit (x : Xlen) (w : Word) : (levelOperand (x.fit w)).toNat = w.toNat % 16 := by
  rw [levelOperand_toNat, Xlen.toNat_fit]
  exact Nat.mod_mod_of_dvd _ (by cases x <;> decide)

/-! ## Entry addresses -/

theorem Config.enabAddr_inj {c : Config} {id jd : BitVec 10} : c.enabAddr id = c.enabAddr jd ↔ id = jd := by
  simp [Config.enabAddr, BitVec.toNat_inj]

theorem Config.pendAddr_inj {c : Config} {id jd : BitVec 10} : c.pendAddr id = c.pendAddr jd ↔ id = jd := by
  simp [Config.pendAddr, BitVec.toNat_inj]

theorem Config.cfgAddr_inj {c : Config} {id jd : BitVec 10} : c.cfgAddr id = c.cfgAddr jd ↔ id = jd := by
  simp [Config.cfgAddr, BitVec.toNat_inj]

/-- The three arrays and the global byte share no address (R33). -/
theorem Config.regions_apart (c : Config) (p e g : BitVec 10) :
    c.pendAddr p < c.enabAddr e ∧ c.enabAddr e < c.cfgAddr g ∧ c.cfgAddr g < c.gcfgAddr := by
  have := p.isLt
  have := e.isLt
  have := g.isLt
  simp only [Config.pendAddr, Config.enabAddr, Config.cfgAddr, Config.gcfgAddr]
  omega

/-- Settles O38: the block ends below `2^XLEN` and apart from the timer block, and holds the four addresses. -/
theorem entryAddressesDoNotWrap : Obligations.EntryAddressesDoNotWrap := by
  intro c id hwf a ha
  have hin : c.inHartLocal a = true := by
    simp only [List.mem_cons, List.not_mem_nil, or_false] at ha
    rcases ha with rfl | rfl | rfl | rfl
    · exact c.pendAddr_inHartLocal id
    · exact c.enabAddr_inHartLocal id
    · exact c.cfgAddr_inHartLocal id
    · exact c.gcfgAddr_inHartLocal
  have hrange := Config.inHartLocal_iff.mp hin
  have hbase := Config.wf_base hwf
  have hapart := Config.wf_apart hwf
  refine ⟨by omega, hin, by omega, Bool.eq_false_iff.mpr fun htimer => ?_⟩
  have := Config.inTimer_iff.mp htimer
  omega

namespace Machine

/-! ## The writing accessors -/

theorem exec_construct (s : State) :
    exec .construct s = .next { s.doneStore s.cfg.gcfgAddr startupPolicy with constructed := true } := rfl

theorem exec_unmask_of_constructed {s : State} (id : BitVec 10) (h : s.constructed = true) :
    exec (.unmask id) s = .next (s.doneStore (s.cfg.enabAddr id) enValue) :=
  State.throughHandle_of_constructed h _

theorem exec_pend_of_softPendable {s : State} {id : BitVec 10} (h : s.constructed = true)
    (hp : s.cfg.softPendable id = true) : exec (.pend id) s = .next (s.doneStore (s.cfg.pendAddr id) pendValue) := by
  simp [exec, execPend, State.throughHandle_of_constructed h, hp]

theorem exec_unpend_of_softPendable {s : State} {id : BitVec 10} (h : s.constructed = true)
    (hp : s.cfg.softPendable id = true) :
    exec (.unpend id) s = .next (s.doneStore (s.cfg.pendAddr id) clearValue) := by
  simp [exec, execUnpend, State.throughHandle_of_constructed h, hp]

theorem exec_pend_of_not_softPendable {s : State} {id : BitVec 10} (h : s.constructed = true)
    (hp : s.cfg.softPendable id = false) : exec (.pend id) s = .next (s.doneQuiet 0 true) := by
  simp [exec, execPend, State.throughHandle_of_constructed h, hp]

theorem exec_unpend_of_not_softPendable {s : State} {id : BitVec 10} (h : s.constructed = true)
    (hp : s.cfg.softPendable id = false) : exec (.unpend id) s = .next (s.doneQuiet 0 true) := by
  simp [exec, execUnpend, State.throughHandle_of_constructed h, hp]

theorem exec_setLevel_of_constructed {s : State} (id : BitVec 10) (level : Word) (h : s.constructed = true) :
    exec (.setLevel id level) s = .next (s.drawn.doneStore (s.cfg.cfgAddr id)
      (levelByte (levelOperand (s.operand level)) s.freeNibble)) :=
  State.throughHandle_of_constructed h _

/-- Settles O8: `CONSTRUCT` is one store of the startup policy, whatever the handle's bit. -/
theorem constructStoresTheStartupPolicy : Obligations.ConstructStoresTheStartupPolicy := by
  intro s
  obtain ⟨hmem, hcsrs, hsetting, -, hdraws⟩ := s.onlyStores_doneStore s.cfg.gcfgAddr startupPolicy
  exact ⟨_, exec_construct s, s.byteAt_doneStore_same _ _, rfl, rfl, rfl, hmem, hcsrs, hsetting, hdraws⟩

/-- Settles O10: `UNMASK` is one store of `EN_VALUE` at `ENAB[id]`. -/
theorem unmaskEnablesItsEntryOnly : Obligations.UnmaskEnablesItsEntryOnly := by
  intro s id hc
  exact ⟨_, exec_unmask_of_constructed id hc, s.byteAt_doneStore_same _ _, rfl, rfl, s.onlyStores_doneStore _ _⟩

/-- Settles O12: on the two software codes a store at `PEND[id]`, on any other a quiet completion. -/
theorem pendAndUnpendActOnTheSoftwareCodesOnly : Obligations.PendAndUnpendActOnTheSoftwareCodesOnly := by
  intro s id hc
  rw [← Config.softPendable_iff]
  refine ⟨fun hp => ⟨?_, ?_⟩, fun hp => ?_⟩
  · exact ⟨_, exec_pend_of_softPendable hc hp, s.byteAt_doneStore_same _ _, rfl, rfl, s.onlyStores_doneStore _ _⟩
  · exact ⟨_, exec_unpend_of_softPendable hc hp, s.byteAt_doneStore_same _ _, rfl, rfl, s.onlyStores_doneStore _ _⟩
  · have hp : s.cfg.softPendable id = false := Bool.eq_false_iff.mpr hp
    exact ⟨⟨_, exec_pend_of_not_softPendable hc hp, rfl, rfl, s.onlyReports_doneQuiet _ _⟩,
      ⟨_, exec_unpend_of_not_softPendable hc hp, rfl, rfl, s.onlyReports_doneQuiet _ _⟩⟩

/-- Settles O13: `SET_LEVEL` is one store of a byte whose high half is the level, after one draw. -/
theorem setLevelWritesTheTopFourBits : Obligations.SetLevelWritesTheTopFourBits := by
  intro s id level hc
  obtain ⟨hmem, hcsrs, hsetting, hconstructed, -⟩ := s.drawn.onlyStores_doneStore (s.cfg.cfgAddr id)
    (levelByte (levelOperand (s.operand level)) s.freeNibble)
  have hbyte := s.drawn.byteAt_doneStore_same (s.cfg.cfgAddr id)
    (levelByte (levelOperand (s.operand level)) s.freeNibble)
  refine ⟨_, exec_setLevel_of_constructed id level hc, ?_, rfl, ?_, hmem, hcsrs, hsetting, hconstructed, rfl⟩
  · exact (congrArg (·.toNat / 16) hbyte).trans ((levelByte_toNat_div _ _).trans (levelOperand_fit _ _))
  · exact congrArg (fun b : Byte => Access.memWrite _ 1 (b.setWidth 128)) hbyte.symm

/-! ## What a query answers after a write -/

/-- The query of the byte just stored. -/
theorem exec_isEnabled_doneStore {s : State} (id : BitVec 10) (v : Byte) (h : s.constructed = true) :
    ∃ u, exec (.isEnabled id) (s.doneStore (s.cfg.enabAddr id) v) = .next u ∧
      u.out = .done (if v = 0 then 0 else 1) true := by
  have hbyte : (s.doneStore (s.cfg.enabAddr id) v).enab id = v := s.byteAt_doneStore_same _ _
  exact ⟨_, exec_isEnabled_of_constructed id h, by simp [hbyte]⟩

theorem exec_isPending_doneStore {s : State} (id : BitVec 10) (v : Byte) (h : s.constructed = true) :
    ∃ u, exec (.isPending id) (s.doneStore (s.cfg.pendAddr id) v) = .next u ∧
      u.out = .done (if v = 0 then 0 else 1) true := by
  have hbyte : (s.doneStore (s.cfg.pendAddr id) v).pend id = v := s.byteAt_doneStore_same _ _
  exact ⟨_, exec_isPending_of_constructed id h, by simp [hbyte]⟩

/-- The level in the byte just stored, as a result word. -/
theorem setWidth_levelOf_levelByte (x : Xlen) (v : Word) (low : BitVec 4) :
    (levelOf (levelByte (levelOperand (x.fit v)) low)).setWidth 128 = v &&& 0xF := by
  apply BitVec.eq_of_toNat_eq
  rw [toNat_setWidth_levelOf, levelByte_toNat_div, levelOperand_fit, BitVec.toNat_and]
  exact (Nat.and_two_pow_sub_one_eq_mod v.toNat 4).symm

/-- Settles O15: each query reads back the byte its write stored. -/
theorem writeThenQueryLaws : Obligations.WriteThenQueryLaws := by
  intro s t id v hc
  refine ⟨fun h => ?mask, fun h => ?unmask, fun hp h => ?pend, fun hp h => ?unpend, fun hp h => ?quiet,
    fun h => ?setLevel⟩
  case mask =>
    rw [exec_mask_of_constructed id hc] at h
    cases h
    exact exec_isEnabled_doneStore id clearValue hc
  case unmask =>
    rw [exec_unmask_of_constructed id hc] at h
    cases h
    exact exec_isEnabled_doneStore id enValue hc
  case pend =>
    rw [exec_pend_of_softPendable hc hp] at h
    cases h
    exact exec_isPending_doneStore id pendValue hc
  case unpend =>
    rw [exec_unpend_of_softPendable hc hp] at h
    cases h
    exact exec_isPending_doneStore id clearValue hc
  case quiet =>
    rw [exec_pend_of_not_softPendable hc hp, exec_unpend_of_not_softPendable hc hp, or_self] at h
    cases h
    exact ⟨_, _, exec_isPending_of_constructed id hc, exec_isPending_of_constructed id hc, rfl⟩
  case setLevel =>
    rw [exec_setLevel_of_constructed id v hc] at h
    cases h
    refine ⟨_, exec_getLevel_of_constructed id hc, ?_⟩
    have hbyte := s.drawn.byteAt_doneStore_same (s.cfg.cfgAddr id) (levelByte (levelOperand (s.operand v)) s.freeNibble)
    rw [State.doneLoad_out, ← setWidth_levelOf_levelByte s.cfg.xlen v s.freeNibble]
    exact congrArg (fun b : Byte => Output.done ((levelOf b).setWidth 128) true) hbyte

/-! ## The bytes an operation can change -/

/-- A byte that a 1-byte store changed is the one stored to. -/
theorem State.eq_of_doneStore_changed {s : State} {a b : Nat} {v : Byte}
    (h : (s.doneStore a v).byteAt b ≠ s.byteAt b) : b = a := by
  by_contra hne
  rw [State.byteAt_doneStore, if_neg hne] at h
  exact h rfl

/-- A byte that an operation changed is the entry of one of the writing operations, said once for all frames. -/
theorem exec_changed_byte {i : Instr} {s t : State} {b : Nat} (h : exec i s = .next t)
    (hb : t.byteAt b ≠ s.byteAt b) :
    (i = .construct ∧ b = s.cfg.gcfgAddr) ∨
    (∃ id, (i = .mask id ∨ i = .unmask id) ∧ b = s.cfg.enabAddr id) ∨
    (∃ id, (i = .pend id ∨ i = .unpend id) ∧ s.cfg.softPendable id = true ∧ b = s.cfg.pendAddr id) ∨
    (∃ id, (∃ level, i = .setLevel id level) ∧ b = s.cfg.cfgAddr id) := by
  rcases exec_next_cases h with ⟨_, _, _, rfl⟩ | ⟨hi, rfl⟩ | ⟨id, hi, _, rfl⟩ | ⟨id, hi, _, rfl⟩ |
    ⟨id, hi, _, hp, rfl⟩ | ⟨id, hi, _, hp, rfl⟩ | ⟨id, level, hi, _, rfl⟩ | ⟨_, _, _, _, rfl⟩ | ⟨_, _, rfl⟩
  · exact absurd rfl hb
  · exact .inl ⟨hi, State.eq_of_doneStore_changed hb⟩
  · exact .inr (.inl ⟨id, .inl hi, State.eq_of_doneStore_changed hb⟩)
  · exact .inr (.inl ⟨id, .inr hi, State.eq_of_doneStore_changed hb⟩)
  · exact .inr (.inr (.inl ⟨id, .inl hi, hp, State.eq_of_doneStore_changed hb⟩))
  · exact .inr (.inr (.inl ⟨id, .inr hi, hp, State.eq_of_doneStore_changed hb⟩))
  · exact .inr (.inr (.inr ⟨id, ⟨level, hi⟩, State.eq_of_doneStore_changed (s := s.drawn) hb⟩))
  · exact absurd (State.byteAt_doneCsrWrite ..) hb
  · exact absurd (State.byteAt_doneCsrWrite ..) hb

/-- An enable byte that changed was masked or unmasked. -/
theorem exec_changed_enab {i : Instr} {s t : State} {id : BitVec 10} (h : exec i s = .next t)
    (hne : t.enab id ≠ s.enab id) : i = .mask id ∨ i = .unmask id := by
  obtain ⟨hcfg, -, -⟩ := exec_next_setting h
  rw [State.enab, State.enab, hcfg] at hne
  obtain ⟨-, hb⟩ | ⟨jd, hi, hb⟩ | ⟨jd, -, -, hb⟩ | ⟨jd, -, hb⟩ := exec_changed_byte h hne
  · have := s.cfg.regions_apart id id id; omega
  · obtain rfl := Config.enabAddr_inj.mp hb; exact hi
  · have := s.cfg.regions_apart jd id id; omega
  · have := s.cfg.regions_apart id id jd; omega

/-- A pending byte that changed was pended or unpended, and its code is software-pendable. -/
theorem exec_changed_pend {i : Instr} {s t : State} {id : BitVec 10} (h : exec i s = .next t)
    (hne : t.pend id ≠ s.pend id) : (i = .pend id ∨ i = .unpend id) ∧ s.cfg.softPendable id = true := by
  obtain ⟨hcfg, -, -⟩ := exec_next_setting h
  rw [State.pend, State.pend, hcfg] at hne
  obtain ⟨-, hb⟩ | ⟨jd, -, hb⟩ | ⟨jd, hi, hp, hb⟩ | ⟨jd, -, hb⟩ := exec_changed_byte h hne
  · have := s.cfg.regions_apart id id id; omega
  · have := s.cfg.regions_apart id jd id; omega
  · obtain rfl := Config.pendAddr_inj.mp hb; exact ⟨hi, hp⟩
  · have := s.cfg.regions_apart id id jd; omega

/-- A configuration byte that changed had its level set. -/
theorem exec_changed_cfgByte {i : Instr} {s t : State} {id : BitVec 10} (h : exec i s = .next t)
    (hne : t.cfgByte id ≠ s.cfgByte id) : ∃ level, i = .setLevel id level := by
  obtain ⟨hcfg, -, -⟩ := exec_next_setting h
  rw [State.cfgByte, State.cfgByte, hcfg] at hne
  obtain ⟨-, hb⟩ | ⟨jd, -, hb⟩ | ⟨jd, -, -, hb⟩ | ⟨jd, hi, hb⟩ := exec_changed_byte h hne
  · have := s.cfg.regions_apart id id id; omega
  · have := s.cfg.regions_apart id jd id; omega
  · have := s.cfg.regions_apart jd id id; omega
  · obtain rfl := Config.cfgAddr_inj.mp hb; exact hi

/-- The global byte changes by `CONSTRUCT` only. -/
theorem exec_changed_gcfg {i : Instr} {s t : State} (h : exec i s = .next t) (hne : t.gcfg ≠ s.gcfg) :
    i = .construct := by
  obtain ⟨hcfg, -, -⟩ := exec_next_setting h
  rw [State.gcfg, State.gcfg, hcfg] at hne
  obtain ⟨hi, -⟩ | ⟨jd, -, hb⟩ | ⟨jd, -, -, hb⟩ | ⟨jd, -, hb⟩ := exec_changed_byte h hne
  · exact hi
  · have := s.cfg.regions_apart jd jd jd; omega
  · have := s.cfg.regions_apart jd jd jd; omega
  · have := s.cfg.regions_apart jd jd jd; omega

/-- Settles O16, an entry at a time. -/
theorem operationsChangeOnlyTheirOwnEntry : Obligations.OperationsChangeOnlyTheirOwnEntry := by
  intro i s t id h
  refine ⟨fun hm hu => ?_, fun hp hu => ?_, fun hl => ?_, fun hcon => ?_⟩ <;> by_contra hne
  · exact (exec_changed_enab h hne).elim hm hu
  · exact (exec_changed_pend h hne).1.elim hp hu
  · obtain ⟨level, hi⟩ := exec_changed_cfgByte h hne
    exact hl level hi
  · exact hcon (exec_changed_gcfg h hne)

/-- Settles O17: the operations that change a pending byte act on software-pendable codes only. -/
theorem otherPendingBytesAreOutOfReach : Obligations.OtherPendingBytesAreOutOfReach := by
  intro i s t id h h3 hcsip
  by_contra hne
  exact (Config.softPendable_iff.mp (exec_changed_pend h hne).2).elim h3 hcsip

/-- A byte that an operation changed is in the hart-local block. -/
theorem exec_changed_inHartLocal {i : Instr} {s t : State} {b : Nat} (h : exec i s = .next t)
    (hb : t.byteAt b ≠ s.byteAt b) : s.cfg.inHartLocal b = true := by
  obtain ⟨-, rfl⟩ | ⟨id, -, rfl⟩ | ⟨id, -, -, rfl⟩ | ⟨id, -, rfl⟩ := exec_changed_byte h hb
  · exact s.cfg.gcfgAddr_inHartLocal
  · exact s.cfg.enabAddr_inHartLocal id
  · exact s.cfg.pendAddr_inHartLocal id
  · exact s.cfg.cfgAddr_inHartLocal id

/-- Bytes of the timer block read as before an operation, the blocks being apart (R48). -/
theorem exec_bytesAt_timer {i : Instr} {s t : State} {a n : Nat} (hwf : s.cfg.wf = true) (h : exec i s = .next t)
    (hlo : s.cfg.clintBase ≤ a) (hhi : a + n ≤ s.cfg.clintBase + 0xC000) : t.bytesAt a n = s.bytesAt a n := by
  refine State.bytesAt_congr fun b hab hbn => ?_
  by_contra hne
  have hin := Config.inHartLocal_iff.mp (exec_changed_inHartLocal h hne)
  have hapart := Config.wf_apart hwf
  omega

/-- Settles O47: the three registers are bytes of the timer block. -/
theorem operationsLeaveTheTimerBlockAlone : Obligations.OperationsLeaveTheTimerBlockAlone := by
  intro i s t hwf h
  obtain ⟨hcfg, -, -⟩ := exec_next_setting h
  refine ⟨?_, ?_, ?_⟩
  · rw [State.msip, State.msip, hcfg, exec_bytesAt_timer hwf h] <;> simp only [Config.msipAddr] <;> omega
  · rw [State.mtimecmp, State.mtimecmp, hcfg, exec_bytesAt_timer hwf h] <;> simp only [Config.mtimecmpAddr] <;> omega
  · rw [State.mtime, State.mtime, hcfg, exec_bytesAt_timer hwf h] <;> simp only [Config.mtimeAddr] <;> omega

end Machine

end Sys2Proof
end

section
/-! SUPPORT. The identifier capability on sources and on converted codes (R73 to R75 of 41_identifier.md). -/

namespace Sys2Proof.Machine

theorem exec_idNumber_of_mem {s : State} {id : BitVec 10} (h : id.toNat ∈ s.cfg.valid) :
    exec (.idNumber id) s = .next (s.doneQuiet (id.setWidth 128) true) :=
  execIdNumber_of_source (Config.isSource_iff.mpr h)

theorem toNat_setWidth_id (id : BitVec 10) : (id.setWidth 128).toNat = id.toNat :=
  BitVec.toNat_setWidth_of_le (by decide)

/-- A code of at most 10 bits survives the cut to an interrupt code. -/
theorem setWidth_setWidth_code {code : Word} (h : code.toNat ≤ 1023) : (code.setWidth 10).setWidth 128 = code := by
  apply BitVec.eq_of_toNat_eq
  rw [toNat_setWidth_id, BitVec.toNat_setWidth, Nat.mod_eq_of_lt (by omega)]

/-- Settles O19: the condition of `ID_NUMBER` is membership, and a member is at most `MAX` by R7. -/
theorem idNumberIsTheIdentityOnSources : Obligations.IdNumberIsTheIdentityOnSources := by
  refine fun s id => ⟨fun h => ⟨_, _, exec_idNumber_of_mem h, rfl, toNat_setWidth_id id, fun hwf => ?_, rfl,
    s.onlyReports_doneQuiet _ _⟩, fun h => ?_⟩
  · rw [toNat_setWidth_id]
    exact (Config.wf_valid hwf h).1
  · exact execIdNumber_of_not_source (Bool.eq_false_iff.mpr fun hs => h (Config.isSource_iff.mp hs))

/-- Settles O21: a source is a 10-bit code of at most `MAX`, so neither direction cuts anything off. -/
theorem identifierRoundTrip : Obligations.IdentifierRoundTrip := by
  refine fun s hwf => ⟨fun x hx => ?back, fun code hfits hmax => ?above, fun code res t hfits h hout => ?converts⟩
  case back =>
    obtain ⟨hmax, h1023⟩ := Config.wf_valid hwf hx
    have hx10 : (BitVec.ofNat 10 x).toNat = x := by rw [BitVec.toNat_ofNat, Nat.mod_eq_of_lt (by omega)]
    have hx128 : (BitVec.ofNat 128 x).toNat = x := by rw [BitVec.toNat_ofNat, Nat.mod_eq_of_lt (by omega)]
    have hres : (BitVec.ofNat 10 x).setWidth 128 = BitVec.ofNat 128 x := by
      apply BitVec.eq_of_toNat_eq
      rw [toNat_setWidth_id, hx10, hx128]
    have hfits : s.fits (BitVec.ofNat 128 x) := State.fits_of_lt (by rw [hx128]; omega)
    refine ⟨_, _, exec_idNumber_of_mem (by rwa [hx10]), by rw [State.doneQuiet_out, hres],
      exec_idTryFrom_of_fits hfits, ?_⟩
    rw [State.doneQuiet_out, State.doneQuiet_cfg, hx128, decide_eq_true hmax, Config.isSource_iff.mpr hx]
    rfl
  case above =>
    refine ⟨_, exec_idTryFrom_of_fits hfits, ?_⟩
    rw [State.doneQuiet_out, decide_eq_false (by omega), Bool.false_and]
  case converts =>
    rw [exec_idTryFrom_of_fits hfits] at h
    cases h
    obtain ⟨-, hok⟩ := Output.done.inj hout
    have hmem : code.toNat ∈ s.cfg.valid := Config.isSource_iff.mp (Bool.and_eq_true_iff.mp hok).2
    obtain ⟨-, h1023⟩ := Config.wf_valid hwf hmem
    have hcode : (code.setWidth 10).toNat = code.toNat := by
      rw [BitVec.toNat_setWidth, Nat.mod_eq_of_lt (by omega)]
    refine ⟨hmem, _, exec_idNumber_of_mem (by rwa [hcode]), ?_⟩
    rw [State.doneQuiet_out, setWidth_setWidth_code h1023]

end Sys2Proof.Machine
end

section
/-! SUPPORT. The cause tables as arithmetic on positions, and the extended fields (R80 to R87 of 42_trap_cause.md). -/

namespace Sys2Proof

/-! ## The encodings of a table, by position -/

theorem excTag_encoding_toNat (c : Nat) : (excTag c).encoding.toNat =
    if c ∈ [0, 1, 2, 3, 4, 5, 6, 7, 8, 9, 11, 12, 13, 15] then 0x10 + c else 0x00 := by
  unfold excTag
  split <;> simp_all [ExcTag.encoding]

theorem intTagExtended_encoding_toNat (c : Nat) : (intTagExtended c).encoding.toNat =
    if c ∈ [3, 7, 11] then 0x30 + c else 0x20 := by
  unfold intTagExtended
  split <;> simp_all [IntTag.encoding]

theorem intTagBaseline_encoding_toNat (c : Nat) : (intTagBaseline c).encoding.toNat =
    if c ∈ [0, 1, 3, 4, 5, 7, 8, 9, 11] then 0x30 + c else 0x20 := by
  unfold intTagBaseline
  split <;> simp_all [IntTag.encoding]

/-! ## The tag of a cause word, by kind and configuration -/

theorem causeTag_encoding_of_exception {x : Xlen} {w : Word} (ext : Bool) (h : causeIsInterrupt x w = false) :
    (causeTag x ext w).encoding = (excTag (causeCode x w).toNat).encoding := by
  simp [causeTag, h, CauseTag.encoding]

theorem causeTag_encoding_of_extended {x : Xlen} {w : Word} (h : causeIsInterrupt x w = true) :
    (causeTag x true w).encoding = (intTagExtended (causeCode x w).toNat).encoding := by
  simp [causeTag, h, CauseTag.encoding]

theorem causeTag_encoding_of_baseline {x : Xlen} {w : Word} (h : causeIsInterrupt x w = true) :
    (causeTag x false w).encoding = (intTagBaseline (causeCode x w).toNat).encoding := by
  simp [causeTag, h, CauseTag.encoding]

/-- With its unnamed value clear in bit 4, a table sets that bit at its named positions only. -/
theorem lt_of_named_position {l : List Nat} {c named unnamed : Nat} (hl : ∀ p ∈ l, p < 16)
    (hunnamed : unnamed / 16 % 2 = 0) (h : (if c ∈ l then named else unnamed) / 16 % 2 = 1) : c < 16 := by
  split at h
  case isTrue hc => exact hl c hc
  case isFalse => omega

/-- A named tag has a code below 16: the whole code is compared (R83). -/
theorem causeCode_lt_of_named {x : Xlen} {ext : Bool} {w : Word}
    (h : (causeTag x ext w).encoding.toNat / 16 % 2 = 1) : (causeCode x w).toNat < 16 := by
  cases hk : causeIsInterrupt x w
  case false =>
    rw [causeTag_encoding_of_exception ext hk, excTag_encoding_toNat] at h
    exact lt_of_named_position (by decide) (by decide) h
  case true =>
    cases ext
    case false =>
      rw [causeTag_encoding_of_baseline hk, intTagBaseline_encoding_toNat] at h
      exact lt_of_named_position (by decide) (by decide) h
    case true =>
      rw [causeTag_encoding_of_extended hk, intTagExtended_encoding_toNat] at h
      exact lt_of_named_position (by decide) (by decide) h

/-- Bits 30:27 lie below the kind bit for every width, so the code contains them (R87). -/
theorem causeCode_extendedFields (x : Xlen) (w : Word) :
    (causeCode x w).toNat / 2 ^ 27 % 16 = w.toNat / 2 ^ 27 % 16 := by
  rw [causeCode_toNat]
  cases x <;> simp only [Xlen.bits] <;> omega

namespace Machine

theorem exec_mcauseCause (s : State) : exec .mcauseCause s =
    .next (s.doneCsrRead .mcause (causeTag s.cfg.xlen s.cfg.extMode s.mcause).encoding true) := rfl

/-- Settles O24: the kind and the configuration select one of three tables, each known by position. -/
theorem causeTablesAreTotal : Obligations.CauseTablesAreTotal := by
  intro s c hfits hc
  rw [← causeCode_toNat] at hc
  refine ⟨_, _, exec_mcauseCause s, rfl, rfl, s.onlyReports_doneCsrRead .., ?_⟩
  split
  case isTrue hlt =>
    rw [causeTag_encoding_of_exception _ (causeIsInterrupt_of_lt hlt), excTag_encoding_toNat, hc]
  case isFalse hge =>
    have hk := causeIsInterrupt_of_ge hfits (not_lt.mp hge)
    split
    case isTrue hext => rw [hext, causeTag_encoding_of_extended hk, intTagExtended_encoding_toNat, hc]
    case isFalse hbase =>
      rw [Bool.eq_false_iff.mpr hbase, causeTag_encoding_of_baseline hk, intTagBaseline_encoding_toNat, hc]

/-- Settles O26: the code contains the fields, and a named tag leaves the code only its low four bits. -/
theorem namedCauseNeedsClearExtendedFields : Obligations.NamedCauseNeedsClearExtendedFields := by
  intro s t u code res hfits ht hcode hu hres
  rw [exec_mcauseCode] at ht
  rw [exec_mcauseCause] at hu
  cases ht
  cases hu
  obtain ⟨rfl, -⟩ := Output.done.inj hcode
  obtain ⟨rfl, -⟩ := Output.done.inj hres
  have hfields := causeCode_extendedFields s.cfg.xlen s.mcause
  refine ⟨hfields, fun hnamed => ?_⟩
  have hlt := causeCode_lt_of_named hnamed
  rw [← causeCode_toNat, ← hfields]
  omega

/-- Settles O25: one condition on the configuration for the three, and each field is a quotient of the word. -/
theorem extendedCauseFields : Obligations.ExtendedCauseFields := by
  refine fun s => ⟨fun h => ⟨?mpie, ?mpp, ?minhv⟩, fun h => ?absent⟩
  case mpie =>
    exact ⟨_, _, State.inExtended_of_ext h _, rfl, (boolWord_toNat _).trans (causeMpie_toNat s.mcause), rfl,
      s.onlyReports_doneCsrRead ..⟩
  case mpp =>
    exact ⟨_, _, State.inExtended_of_ext h _, rfl,
      (BitVec.toNat_setWidth_of_le (by decide)).trans (causeMpp_toNat s.mcause), rfl, s.onlyReports_doneCsrRead ..⟩
  case minhv =>
    exact ⟨_, _, State.inExtended_of_ext h _, rfl, (boolWord_toNat _).trans (causeMinhv_toNat s.mcause), rfl,
      s.onlyReports_doneCsrRead ..⟩
  case absent =>
    exact ⟨State.inExtended_of_base h _, State.inExtended_of_base h _, State.inExtended_of_base h _⟩

end Machine

end Sys2Proof
end

section
/-! SUPPORT. The trap-vector and table-base registers: the mode table, the packed sum, and what is read back
(R89 to R93 of 43_trap_vector.md). -/

namespace Sys2Proof

theorem decode_mtvtAddress (arg : Word) : decode ⟨headerOf false 0x1B 0, arg⟩ = .ok .mtvtAddress := by
  simp [decode, decodePlain]

theorem TrapMode.bit_toNat (m : TrapMode) : m.bit.toNat = if m = .vectored then 1 else 0 := by
  cases m <;> rfl

/-- Where the configuration gives the code a tag, it is the code's low bit. -/
theorem vecMode_eq_some {ext : Bool} {w : Word} (h : ext = true ∨ w.toNat % 4 < 2) :
    ∃ mode, vecMode ext w = some mode ∧ mode.bit.toNat = w.toNat % 2 := by
  have hcases : w.toNat % 4 = 0 ∨ w.toNat % 4 = 1 ∨ w.toNat % 4 = 2 ∨ w.toNat % 4 = 3 := by omega
  rcases hcases with hc | hc | hc | hc
  · exact ⟨.direct, by simp [vecMode, vecModeCode_toNat, hc], show 0 = w.toNat % 2 by omega⟩
  · exact ⟨.vectored, by simp [vecMode, vecModeCode_toNat, hc], show 1 = w.toNat % 2 by omega⟩
  · obtain rfl : ext = true := h.resolve_right (by omega)
    exact ⟨.direct, by simp [vecMode, vecModeCode_toNat, hc], show 0 = w.toNat % 2 by omega⟩
  · obtain rfl : ext = true := h.resolve_right (by omega)
    exact ⟨.vectored, by simp [vecMode, vecModeCode_toNat, hc], show 1 = w.toNat % 2 by omega⟩

/-- Codes 2 and 3 have no tag in the baseline configuration. -/
theorem vecMode_eq_none {ext : Bool} {w : Word} (h : ¬(ext = true ∨ w.toNat % 4 < 2)) : vecMode ext w = none := by
  obtain ⟨hbase, hge⟩ := not_or.mp h
  have hcases : w.toNat % 4 = 2 ∨ w.toNat % 4 = 3 := by omega
  rcases hcases with hc | hc <;> simp [vecMode, vecModeCode_toNat, hc, hbase]

/-- The sum reaches `2^XLEN` for all ones with Vectored alone. -/
theorem vecPack_lt_iff {x : Xlen} {addr : Word} {mode : TrapMode} (h : addr.toNat < 2 ^ x.bits) :
    vecPack addr mode < 2 ^ x.bits ↔ ¬(addr.toNat = 2 ^ x.bits - 1 ∧ mode = .vectored) := by
  cases mode <;> simp [vecPack, TrapMode.bit] <;> omega

/-- All ones is no multiple of 4. -/
theorem vecPack_lt_of_aligned {x : Xlen} {addr : Word} (mode : TrapMode) (h : addr.toNat < 2 ^ x.bits)
    (h4 : addr.toNat % 4 = 0) : vecPack addr mode < 2 ^ x.bits := by
  refine (vecPack_lt_iff h).mpr fun ⟨hones, _⟩ => ?_
  cases x <;> simp only [Xlen.bits] at hones <;> omega

/-- Masking a masked address changes nothing. -/
theorem tableAddress_tableAddress (w : Word) : tableAddress (tableAddress w) = tableAddress w := by
  apply BitVec.eq_of_toNat_eq
  rw [tableAddress_toNat, tableAddress_toNat, Nat.mul_div_cancel_left _ (by decide)]

/-- Reading back what `MTVT_WRITE` stored masks no further bits. -/
theorem tableAddress_tablePack (addr : Word) : tableAddress (tablePack addr) = tablePack addr :=
  tableAddress_tableAddress addr

namespace Machine

theorem exec_mtvtAddress (s : State) :
    exec .mtvtAddress s = .next (s.doneCsrRead .mtvt (tableAddress s.mtvt) true) := rfl

theorem exec_mtvecTrapMode_of_some {s : State} {mode : TrapMode} (h : vecMode s.cfg.extMode s.mtvec = some mode) :
    exec .mtvecTrapMode s = .next (s.doneCsrRead .mtvec (boolWord mode.bit) true) := by
  simp [exec, execMtvecTrapMode, h]

theorem exec_mtvecTrapMode_of_none {s : State} (h : vecMode s.cfg.extMode s.mtvec = none) :
    exec .mtvecTrapMode s = .next (s.doneCsrRead .mtvec ((vecModeCode s.mtvec).setWidth 128) false) := by
  simp [exec, execMtvecTrapMode, h]

theorem exec_mtvecWrite_of_lt {s : State} {addr : Word} {mode : TrapMode} (h : s.fits addr)
    (hlt : vecPack addr mode < 2 ^ s.cfg.xlen.bits) :
    exec (.mtvecWrite addr mode) s = .next (s.doneCsrWrite .mtvec (BitVec.ofNat 128 (vecPack addr mode))) := by
  have hexec := execMtvecWrite_of_lt (s := s) (addr := addr) (mode := mode) (by rwa [State.operand_of_fits h])
  rwa [State.operand_of_fits h] at hexec

theorem State.fits_vecPack {s : State} {addr : Word} {mode : TrapMode}
    (hlt : vecPack addr mode < 2 ^ s.cfg.xlen.bits) : s.fits (BitVec.ofNat 128 (vecPack addr mode)) := by
  rw [State.fits, vecPack_toNat hlt]
  exact hlt

/-- Settles O28: `MTVT_ADDRESS` is one read of the table base, rounded down. -/
theorem tableBaseAddressClearsTheLowSixBits : Obligations.TableBaseAddressClearsTheLowSixBits := by
  intro s arg
  exact ⟨decode_of_eq_headerOf (decode_mtvtAddress arg) (by decide), _, _, exec_mtvtAddress s, rfl,
    tableAddress_toNat s.mtvt, rfl, s.onlyReports_doneCsrRead ..⟩

/-- Settles O29: the code has a tag, its low bit, or in the baseline configuration none from 2 up. -/
theorem trapModeTable : Obligations.TrapModeTable := by
  intro s
  by_cases h : s.cfg.extMode = true ∨ s.mtvec.toNat % 4 < 2
  · obtain ⟨mode, hmode, hbit⟩ := vecMode_eq_some h
    refine ⟨_, _, exec_mtvecTrapMode_of_some hmode, rfl, s.onlyReports_doneCsrRead ..,
      fun _ => ⟨rfl, (boolWord_toNat _).trans hbit⟩, fun ⟨hbase, hge⟩ => ?_⟩
    rcases h with hext | hlt
    · simp [hbase] at hext
    · omega
  · refine ⟨_, _, exec_mtvecTrapMode_of_none (vecMode_eq_none h), rfl,
      s.onlyReports_doneCsrRead .., fun h' => absurd h' h, fun _ => ⟨rfl, ?_⟩⟩
    rw [BitVec.toNat_setWidth_of_le (by decide), vecModeCode_toNat]

/-- Settles O30: below `2^XLEN` the sum is a native word and is stored whole, and it is below except in the one case. -/
theorem trapVectorWriteStoresTheSum : Obligations.TrapVectorWriteStoresTheSum := by
  refine fun s addr mode hfits => ⟨fun h => ?stored, fun h => ?overflow⟩
  case stored =>
    have hlt := (vecPack_lt_iff hfits).mpr h
    have hpack := State.fits_vecPack hlt
    have hmtvec : (s.doneCsrWrite .mtvec (BitVec.ofNat 128 (vecPack addr mode))).mtvec =
        BitVec.ofNat 128 (vecPack addr mode) := State.csr_doneCsrWrite_same .mtvec hpack
    obtain ⟨hbus, hmem, hsetting, hconstructed, hdraws, hother⟩ := s.accessed_doneCsrWrite .mtvec hpack
    refine ⟨_, exec_mtvecWrite_of_lt hfits hlt, ?_, rfl, hbus, hmem, hsetting, hother .mcause (by decide),
      hother .mtvt (by decide), hconstructed, hdraws⟩
    rw [hmtvec, vecPack_toNat hlt, TrapMode.bit_toNat]
  case overflow =>
    refine execMtvecWrite_of_ge (not_lt.mp fun hlt => ?_)
    rw [State.operand_of_fits hfits] at hlt
    exact (vecPack_lt_iff hfits).mp hlt h

/-- Settles O32: an aligned address and a mode do not overlap in the stored sum, and rounding down twice is rounding
down once. -/
theorem vectorRegisterRoundTrips : Obligations.VectorRegisterRoundTrips := by
  refine fun s addr hfits => ⟨fun mode h4 => ?trapVector, ?tableBase, fun w => ⟨?parts, tableAddress_tableAddress w⟩⟩
  case trapVector =>
    have hlt := vecPack_lt_of_aligned mode hfits h4
    have hmtvec : (s.doneCsrWrite .mtvec (BitVec.ofNat 128 (vecPack addr mode))).mtvec.toNat =
        addr.toNat + mode.bit.toNat :=
      (congrArg BitVec.toNat (State.csr_doneCsrWrite_same .mtvec (State.fits_vecPack hlt))).trans (vecPack_toNat hlt)
    have hbit : mode.bit.toNat < 2 := mode.bit.toNat_lt
    obtain ⟨read, hread, hreadBit⟩ := vecMode_eq_some (ext := s.cfg.extMode)
      (w := (s.doneCsrWrite .mtvec (BitVec.ofNat 128 (vecPack addr mode))).mtvec) (.inr (by omega))
    refine ⟨_, _, _, exec_mtvecWrite_of_lt hfits hlt, exec_mtvecAddress _, ?address,
      exec_mtvecTrapMode_of_some hread, ?mode⟩
    case address =>
      refine congrArg (Output.done · true) (BitVec.eq_of_toNat_eq ?_)
      rw [vecAddress_toNat, hmtvec]
      omega
    case mode =>
      refine congrArg (Output.done · true) (BitVec.eq_of_toNat_eq ?_)
      rw [boolWord_toNat, hreadBit, hmtvec]
      cases mode <;> simp [TrapMode.bit] <;> omega
  case tableBase =>
    have hmtvt : (s.doneCsrWrite .mtvt (tablePack addr)).mtvt = tablePack addr :=
      State.csr_doneCsrWrite_same .mtvt (State.fits_tablePack hfits)
    refine ⟨_, _, tablePack addr, exec_mtvtWrite_of_fits hfits, exec_mtvtAddress _, ?_, tablePack_toNat addr, ?_⟩
    · rw [State.doneCsrRead_out, hmtvt, tableAddress_tablePack]
    · rw [← BitVec.toNat_inj, tablePack_toNat]
      omega
  case parts =>
    rw [vecAddress_toNat, vecModeCode_toNat, Nat.div_add_mod]

/-! ## Who writes the two registers -/

theorem exec_changed_mtvec {i : Instr} {s t : State} (h : exec i s = .next t) (hne : t.mtvec ≠ s.mtvec) :
    ∃ addr mode, i = .mtvecWrite addr mode := by
  rcases exec_next_cases h with ⟨_, _, _, rfl⟩ | ⟨_, rfl⟩ | ⟨_, _, _, rfl⟩ | ⟨_, _, _, rfl⟩ | ⟨_, _, _, _, rfl⟩ |
    ⟨_, _, _, _, rfl⟩ | ⟨_, _, _, _, rfl⟩ | ⟨addr, mode, hi, _, _⟩ | ⟨_, _, rfl⟩
  case inr.inr.inr.inr.inr.inr.inr.inl => exact ⟨addr, mode, hi⟩
  all_goals exact absurd rfl hne

theorem exec_changed_mtvt {i : Instr} {s t : State} (h : exec i s = .next t) (hne : t.mtvt ≠ s.mtvt) :
    ∃ addr, i = .mtvtWrite addr := by
  rcases exec_next_cases h with ⟨_, _, _, rfl⟩ | ⟨_, rfl⟩ | ⟨_, _, _, rfl⟩ | ⟨_, _, _, rfl⟩ | ⟨_, _, _, _, rfl⟩ |
    ⟨_, _, _, _, rfl⟩ | ⟨_, _, _, _, rfl⟩ | ⟨_, _, _, _, rfl⟩ | ⟨addr, hi, _⟩
  case inr.inr.inr.inr.inr.inr.inr.inr => exact ⟨addr, hi⟩
  all_goals exact absurd rfl hne

/-- Settles O46: the operand is cut to a native word, whose rounding down is stored whole. -/
theorem vectorRegistersChangeOnlyByTheirWrites : Obligations.VectorRegistersChangeOnlyByTheirWrites := by
  rintro i s t h
  refine ⟨exec_changed_mtvec h, exec_changed_mtvt h, ?_⟩
  rintro addr rfl
  cases h
  have hfits : s.fits (s.operand addr) := Xlen.fit_lt _ _
  have hmtvt : (s.doneCsrWrite .mtvt (tablePack (s.operand addr))).mtvt = tablePack (s.operand addr) :=
    State.csr_doneCsrWrite_same .mtvt (State.fits_tablePack hfits)
  rw [hmtvt, tablePack_toNat]
  exact Nat.mul_mod_right _ _

end Machine

end Sys2Proof
end

section
/-! SUPPORT. Raw accesses of other agents and the steps of the environment (R33, R37 to R42 of 20_memory.md, R107 of
60_exceptions.md, R113 of 70_reset_and_hazards.md). -/

namespace Sys2Proof

/-- An admitted access touches no byte without a cell. -/
theorem Config.not_admits_of_unmapped {c : Config} {a n k : Nat} (hk : k < n) (h : c.mapped (a + k) = false) :
    c.admits a n = false := by
  refine Bool.eq_false_iff.mpr fun hadm => ?_
  rw [Config.admits_mapped hadm (Nat.le_add_right a k) (by omega)] at h
  cases h

theorem Config.not_allMapped_of_unmapped {c : Config} {a n k : Nat} (hk : k < n) (h : c.mapped (a + k) = false) :
    c.allMapped a n = false := by
  refine Bool.eq_false_iff.mpr fun hall => ?_
  rw [List.all_eq_true.mp hall k (List.mem_range.mpr hk)] at h
  cases h

namespace Machine

/-! ## Which raw accesses complete -/

theorem State.rawRead_completes_iff {s : State} {a n : Nat} :
    (∃ t, s.rawRead a n = .next t) ↔ s.cfg.admits a n = true := by
  simp [State.rawRead_next]

theorem State.rawWrite_completes_iff {s : State} {a n : Nat} {v : Word} :
    (∃ t, s.rawWrite a n v = .next t) ↔ s.cfg.admits a n = true := by
  simp [State.rawWrite_next]

/-- A byte without a cell is named in the refusal, as the arbiter's where it may be (R38, R47). -/
theorem State.rawRefusal_of_unmapped {s : State} {a n k : Nat} (hk : k < n) (h : s.cfg.mapped (a + k) = false) :
    s.rawRefusal a n ∈ [Refusal.unmappedAddress, Refusal.externalArbiter] := by
  rw [State.rawRefusal, Config.not_allMapped_of_unmapped hk h]
  cases s.cfg.touchesArbiter a n <;> decide

/-- Settles O36: a raw access completes exactly where it is admitted, read or written, and an access that touches a byte
without a cell is not admitted. -/
theorem rawAccessesReachExactCellsOnly : Obligations.RawAccessesReachExactCellsOnly := by
  refine fun s addr v n => ⟨?_, ?_, fun ⟨k, hk, hunmapped⟩ => ?_⟩
  · exact State.rawRead_completes_iff.trans Config.admits_iff
  · exact State.rawWrite_completes_iff.trans State.rawRead_completes_iff.symm
  · have hadm := Config.not_admits_of_unmapped hk hunmapped
    exact ⟨_, State.rawRefusal_of_unmapped hk hunmapped, if_neg (Bool.eq_false_iff.mp hadm),
      if_neg (Bool.eq_false_iff.mp hadm)⟩

/-! ## The timer block -/

@[simp] theorem State.bytesAt_report (s : State) (o : Output) (x : Access) (a n : Nat) :
    (s.report o x).bytesAt a n = s.bytesAt a n := State.bytesAt_congr fun _ _ _ => rfl

/-- A register of `n` bytes holds the low `n` bytes of a word stored there. -/
theorem State.ofNat_bytesAt_putBytes (s : State) (a n : Nat) (v : Word) :
    BitVec.ofNat (8 * n) ((s.putBytes a n v.toNat).bytesAt a n) = v.setWidth (8 * n) := by
  apply BitVec.eq_of_toNat_eq
  rw [State.bytesAt_putBytes, BitVec.toNat_ofNat, BitVec.toNat_setWidth, Nat.pow_mul, Nat.mod_mod]

/-- A register of `n` bytes and the word a raw read of `n` bytes returns are one number. -/
theorem State.ofNat_bytesAt_setWidth (s : State) (a : Nat) {n : Nat} (hn : n ≤ 16) :
    BitVec.ofNat 128 (s.bytesAt a n) = (BitVec.ofNat (8 * n) (s.bytesAt a n)).setWidth 128 := by
  have hlt : s.bytesAt a n < 2 ^ (8 * n) := Nat.pow_mul 2 8 n ▸ s.bytesAt_lt a n
  apply BitVec.eq_of_toNat_eq
  rw [BitVec.toNat_setWidth_of_le (by omega), BitVec.toNat_ofNat, BitVec.toNat_ofNat, Nat.mod_eq_of_lt hlt,
    Nat.mod_eq_of_lt (hlt.trans_le (Nat.pow_le_pow_right (by decide) (by omega)))]

/-- A raw write of an admitted cell stores it and changes no other. -/
theorem State.receive_memWrite_of_admits {s : State} {addr : Word} {n : Nat} (v : Word)
    (h : s.cfg.admits addr.toNat n = true) : s.receive (.memWrite addr n v) =
      .next ((s.putBytes addr.toNat n v.toNat).report .none (.memWrite addr.toNat n v)) :=
  State.rawWrite_next.mpr ⟨h, rfl⟩

/-- A raw read of an admitted cell returns its register. -/
theorem State.receive_memRead_of_admits {s : State} {addr : Word} {n : Nat}
    (h : s.cfg.admits addr.toNat n = true) (hn : n ≤ 16) : s.receive (.memRead addr n) =
      .next (s.report (.data ((BitVec.ofNat (8 * n) (s.bytesAt addr.toNat n)).setWidth 128))
        (.memRead addr.toNat n)) :=
  State.rawRead_next.mpr ⟨h, by rw [← s.ofNat_bytesAt_setWidth _ hn]⟩

theorem State.msip_putBytes (s : State) (v : Word) (o : Output) (x : Access) :
    ((s.putBytes s.cfg.msipAddr 4 v.toNat).report o x).msip = v.setWidth 32 := by
  rw [State.msip, State.bytesAt_report, State.report_cfg, State.putBytes_cfg]
  exact s.ofNat_bytesAt_putBytes _ 4 v

theorem State.mtimecmp_putBytes (s : State) (v : Word) (o : Output) (x : Access) :
    ((s.putBytes s.cfg.mtimecmpAddr 8 v.toNat).report o x).mtimecmp = v.setWidth 64 := by
  rw [State.mtimecmp, State.bytesAt_report, State.report_cfg, State.putBytes_cfg]
  exact s.ofNat_bytesAt_putBytes _ 8 v

theorem State.mtime_putBytes (s : State) (v : Word) (o : Output) (x : Access) :
    ((s.putBytes s.cfg.mtimeAddr 8 v.toNat).report o x).mtime = v.setWidth 64 := by
  rw [State.mtime, State.bytesAt_report, State.report_cfg, State.putBytes_cfg]
  exact s.ofNat_bytesAt_putBytes _ 8 v

/-- Settles O34: the three registers are admitted at their widths, and are those bytes. -/
theorem timerBlockMap : Obligations.TimerBlockMap := by
  refine fun s addr v => ⟨fun ha => ?msip, fun ha => ?mtimecmp, fun ha => ?mtime⟩
  case msip =>
    have hadm : s.cfg.admits addr.toNat 4 = true := Config.admits_iff.mpr (.inr (.inl ⟨rfl, ha⟩))
    have haddr : s.cfg.msipAddr = addr.toNat := ha.symm
    exact ⟨⟨_, State.receive_memWrite_of_admits v hadm, haddr ▸ s.msip_putBytes v _ _, s.onlyStores_putBytes ..⟩,
      ⟨_, State.receive_memRead_of_admits hadm (by decide), by rw [State.report_out, State.msip, haddr],
        s.onlyReports_report _ _⟩⟩
  case mtimecmp =>
    have hadm : s.cfg.admits addr.toNat 8 = true := Config.admits_iff.mpr (.inr (.inr ⟨rfl, .inl ha⟩))
    have haddr : s.cfg.mtimecmpAddr = addr.toNat := ha.symm
    exact ⟨⟨_, State.receive_memWrite_of_admits v hadm, haddr ▸ s.mtimecmp_putBytes v _ _, s.onlyStores_putBytes ..⟩,
      ⟨_, State.receive_memRead_of_admits hadm (by decide), by rw [State.report_out, State.mtimecmp, haddr],
        s.onlyReports_report _ _⟩⟩
  case mtime =>
    have hadm : s.cfg.admits addr.toNat 8 = true := Config.admits_iff.mpr (.inr (.inr ⟨rfl, .inr ha⟩))
    have haddr : s.cfg.mtimeAddr = addr.toNat := ha.symm
    exact ⟨⟨_, State.receive_memWrite_of_admits v hadm, haddr ▸ s.mtime_putBytes v _ _, s.onlyStores_putBytes ..⟩,
      ⟨_, State.receive_memRead_of_admits hadm (by decide), by rw [State.report_out, State.mtime, haddr],
        s.onlyReports_report _ _⟩⟩

/-- Settles O35: byte `k` of a wide store is the value's digit `k` in base 256. -/
theorem multiByteRegistersAreLittleEndian : Obligations.MultiByteRegistersAreLittleEndian := by
  intro s t addr v n k h hk
  obtain ⟨-, rfl⟩ := State.rawWrite_next.mp h
  rw [State.byteAt_report, State.byteAt_putBytes _ _ hk, BitVec.toNat_ofNat, Nat.pow_mul]

/-! ## The control registers -/

/-- Any number but the three is outside the primitive (R40). -/
theorem csrOfNumber_eq_none {num : BitVec 12} (h : num ∉ [(0x342 : BitVec 12), 0x305, 0x307]) :
    csrOfNumber num = none := by
  cases hr : csrOfNumber num with
  | none => rfl
  | some r =>
    obtain rfl := csrOfNumber_eq_some hr
    exact absurd (by cases r <;> decide) h

theorem State.receive_csrWrite (s : State) (r : Csr) (v : Word) :
    s.receive (.csrWrite r.number v) = .next ((s.putCsr r v).report .none (.csrWrite r.number v)) :=
  State.rawCsrWrite_next.mpr ⟨r, csrOfNumber_number r, rfl⟩

theorem State.receive_csrRead (s : State) (r : Csr) :
    s.receive (.csrRead r.number) = .next (s.report (.data (s.csr r)) (.csrRead r.number)) :=
  State.rawCsrRead_next.mpr ⟨r, csrOfNumber_number r, rfl⟩

/-- A register write of a native word is read back whole, and changes no other cell. -/
theorem State.plainCell_putCsr {s : State} (r : Csr) {v : Word} (h : s.fits v) (o : Output) (x : Access) :
    ((s.putCsr r v).report o x).csr r = v ∧ (∀ q, q ≠ r → ((s.putCsr r v).report o x).csr q = s.csr q) ∧
    s.SameMemory ((s.putCsr r v).report o x) ∧ s.SameSetting ((s.putCsr r v).report o x) ∧
    ((s.putCsr r v).report o x).constructed = s.constructed := by
  obtain ⟨-, hmem, hsetting, hconstructed, -, hother⟩ := s.accessed_doneCsrWrite r h
  refine ⟨State.csr_doneCsrWrite_same r h, fun q hq => hother q hq, hmem, hsetting, hconstructed⟩

/-- Settles O37: each of the three numbers names one plain cell, any other none. -/
theorem csrPrimitiveIsAPlainCell : Obligations.CsrPrimitiveIsAPlainCell := by
  refine fun s v hfits => ⟨?mcause, ?mtvec, ?mtvt, ?_, ?_, ?_, fun num hnum => ?outside⟩
  case mcause =>
    obtain ⟨hsame, hother, hrest⟩ := State.plainCell_putCsr .mcause hfits .none (.csrWrite 0x342 v)
    exact ⟨_, s.receive_csrWrite .mcause v, hsame, hother .mtvec (by decide), hother .mtvt (by decide), hrest⟩
  case mtvec =>
    obtain ⟨hsame, hother, hrest⟩ := State.plainCell_putCsr .mtvec hfits .none (.csrWrite 0x305 v)
    exact ⟨_, s.receive_csrWrite .mtvec v, hsame, hother .mcause (by decide), hother .mtvt (by decide), hrest⟩
  case mtvt =>
    obtain ⟨hsame, hother, hrest⟩ := State.plainCell_putCsr .mtvt hfits .none (.csrWrite 0x307 v)
    exact ⟨_, s.receive_csrWrite .mtvt v, hsame, hother .mcause (by decide), hother .mtvec (by decide), hrest⟩
  · exact ⟨_, s.receive_csrRead .mcause, rfl, s.onlyReports_report _ _⟩
  · exact ⟨_, s.receive_csrRead .mtvec, rfl, s.onlyReports_report _ _⟩
  · exact ⟨_, s.receive_csrRead .mtvt, rfl, s.onlyReports_report _ _⟩
  case outside =>
    simp [State.receive, State.rawCsrRead, State.rawCsrWrite, csrOfNumber_eq_none hnum]

/-! ## The environment -/

/-- Settles O48: the trap hardware writes one register, the counter step the 8 bytes of `MTIME`. -/
theorem environmentStepsChangeOneRegister : Obligations.EnvironmentStepsChangeOneRegister := by
  refine fun s => ⟨fun v hfits => ?trapCause, fun v => ?counter⟩
  case trapCause =>
    obtain ⟨hsame, hother, hrest⟩ := State.plainCell_putCsr .mcause hfits .none .none
    exact ⟨s.recordCause v, rfl, hsame, hother .mtvec (by decide), hother .mtvt (by decide), hrest⟩
  case counter =>
    have hv : v.toNat = (v.setWidth 128).toNat := (BitVec.toNat_setWidth_of_le (by decide)).symm
    refine ⟨s.replaceCounter v, rfl, ?_, s.onlyStores_putBytes ..⟩
    rw [State.replaceCounter, hv, State.mtime_putBytes]
    simp

/-- Settles O49: nothing is written after a reset, and the free contents depend on the parameters and the count. -/
theorem resetForgetsEveryCell : Obligations.ResetForgetsEveryCell := by
  intro s u hcfg hresets
  refine ⟨s.externalReset, u.externalReset, rfl, rfl, rfl, rfl, rfl, rfl, ?_, fun a => ?_⟩
  · simp [State.SameCsrs, hcfg, hresets]
  · simp [State.byteAt, State.unlisted, hresets]

end Machine

end Sys2Proof
end

section
/-! SUPPORT. The access and the outcome of each operation (R15, R43, R50, R94), an operation at a time. -/

namespace Sys2Proof.Machine

/-! ## The access of each operation -/

/-- The two gated writes: one byte written on a software-pendable code, nothing accessed on another. -/
theorem State.accessed_gated (s : State) {a : Nat} (g : Bool) (v : Byte) (h : s.cfg.inHartLocal a = true) :
    s.Accessed (if g then s.doneStore a v else s.doneQuiet 0 true) .byteWriteOrNone := by
  cases g
  case true => exact .inl (s.wroteOneByte_doneStore v h)
  case false => exact .inr ⟨rfl, s.onlyReports_doneQuiet _ _⟩

theorem State.accessed_doneCsrRead (s : State) (r : Csr) (res : Word) (ok : Bool) :
    s.Accessed (s.doneCsrRead r res ok) (.csrRead r) :=
  ⟨rfl, s.onlyReports_doneCsrRead r res ok⟩

theorem State.accessed_doneQuiet (s : State) (res : Word) (ok : Bool) : s.Accessed (s.doneQuiet res ok) .none :=
  ⟨rfl, s.onlyReports_doneQuiet res ok⟩

/-- Settles O39, from the access that each way of ending a step makes. -/
theorem eachOperationMakesAtMostOneAccess : Obligations.EachOperationMakesAtMostOneAccess := by
  intro i s t h
  cases i with
  | construct => cases h; exact s.wroteOneByte_doneStore _ s.cfg.gcfgAddr_inHartLocal
  | mask id =>
    obtain ⟨-, rfl⟩ := State.throughHandle_next.mp h
    exact s.wroteOneByte_doneStore _ (s.cfg.enabAddr_inHartLocal id)
  | unmask id =>
    obtain ⟨-, rfl⟩ := State.throughHandle_next.mp h
    exact s.wroteOneByte_doneStore _ (s.cfg.enabAddr_inHartLocal id)
  | isEnabled id =>
    obtain ⟨-, rfl⟩ := State.throughHandle_next.mp h
    exact s.readOneByte_doneLoad _ (s.cfg.enabAddr_inHartLocal id)
  | pend id =>
    obtain ⟨-, rfl⟩ := State.throughHandle_next.mp h
    exact s.accessed_gated _ _ (s.cfg.pendAddr_inHartLocal id)
  | unpend id =>
    obtain ⟨-, rfl⟩ := State.throughHandle_next.mp h
    exact s.accessed_gated _ _ (s.cfg.pendAddr_inHartLocal id)
  | isPending id =>
    obtain ⟨-, rfl⟩ := State.throughHandle_next.mp h
    exact s.readOneByte_doneLoad _ (s.cfg.pendAddr_inHartLocal id)
  | setLevel id level =>
    obtain ⟨-, rfl⟩ := State.throughHandle_next.mp h
    exact s.drawn.wroteOneByte_doneStore _ (s.cfg.cfgAddr_inHartLocal id)
  | getLevel id =>
    obtain ⟨-, rfl⟩ := State.throughHandle_next.mp h
    exact s.readOneByte_doneLoad _ (s.cfg.cfgAddr_inHartLocal id)
  | idNumber id =>
    simp only [exec, execIdNumber] at h
    split at h
    · cases h; exact s.accessed_doneQuiet _ _
    · cases h
  | idTryFrom code => cases h; exact s.accessed_doneQuiet _ _
  | mcauseBits => cases h; exact s.accessed_doneCsrRead ..
  | mcauseCode => cases h; exact s.accessed_doneCsrRead ..
  | mcauseIsInterrupt => cases h; exact s.accessed_doneCsrRead ..
  | mcauseIsException => cases h; exact s.accessed_doneCsrRead ..
  | mcauseCause => cases h; exact s.accessed_doneCsrRead ..
  | mcauseMpie => obtain ⟨-, rfl⟩ := State.inExtended_next.mp h; exact s.accessed_doneCsrRead ..
  | mcauseMpp => obtain ⟨-, rfl⟩ := State.inExtended_next.mp h; exact s.accessed_doneCsrRead ..
  | mcauseMinhv => obtain ⟨-, rfl⟩ := State.inExtended_next.mp h; exact s.accessed_doneCsrRead ..
  | mtvecAddress => cases h; exact s.accessed_doneCsrRead ..
  | mtvecTrapMode => cases h; split <;> exact s.accessed_doneCsrRead ..
  | mtvecWrite addr mode =>
    simp only [exec, execMtvecWrite] at h
    split at h
    case isTrue => cases h
    case isFalse hlt => cases h; exact s.accessed_doneCsrWrite _ (State.fits_vecPack (not_le.mp hlt))
  | mtvtAddress => cases h; exact s.accessed_doneCsrRead ..
  | mtvtWrite addr => cases h; exact s.accessed_doneCsrWrite _ (State.fits_tablePack (Xlen.fit_lt _ _))

/-! ## The outcome of each operation -/

/-- `Done(res, ok)`, with `ok = 0` only if `p`, or a refusal of the closed list (R15). -/
def DoneOrRefused (p : Prop) (o : Host.Outcome State Fault Refusal) : Prop :=
  (∃ t res ok, o = .next t ∧ t.out = .done res ok ∧ (ok = false → p)) ∨
  ∃ r ∈ [Refusal.notConstructed, Refusal.absentInConfiguration, Refusal.sumOverflow, Refusal.notASource], o = .refused r

theorem DoneOrRefused.done {p : Prop} {t : State} {res : Word} (h : t.out = .done res true) :
    DoneOrRefused p (.next t) :=
  .inl ⟨t, res, true, rfl, h, nofun⟩

theorem DoneOrRefused.throughHandle {p : Prop} (s : State) {t : State} {res : Word} (h : t.out = .done res true) :
    DoneOrRefused p (s.throughHandle t) := by
  cases hc : s.constructed
  case false => exact .inr ⟨_, by decide, State.throughHandle_of_not_constructed hc t⟩
  case true => exact State.throughHandle_of_constructed hc t ▸ DoneOrRefused.done h

theorem DoneOrRefused.inExtended {p : Prop} (s : State) {t : State} {res : Word} (h : t.out = .done res true) :
    DoneOrRefused p (s.inExtended t) := by
  cases hm : s.cfg.extMode
  case false => exact .inr ⟨_, by decide, State.inExtended_of_base hm t⟩
  case true => exact State.inExtended_of_ext hm t ▸ DoneOrRefused.done h

/-- A gated write completes with `ok = 1` whether or not it writes. -/
theorem State.gated_out (s : State) (a : Nat) (g : Bool) (v : Byte) :
    (if g then s.doneStore a v else s.doneQuiet 0 true).out = .done 0 true := by cases g <;> rfl

theorem DoneOrRefused.idNumber {p : Prop} (id : BitVec 10) (s : State) : DoneOrRefused p (execIdNumber id s) := by
  cases hs : s.cfg.isSource id.toNat
  case false => exact .inr ⟨_, by decide, execIdNumber_of_not_source hs⟩
  case true => exact execIdNumber_of_source hs ▸ DoneOrRefused.done rfl

theorem DoneOrRefused.mtvecWrite {p : Prop} (addr : Word) (mode : TrapMode) (s : State) :
    DoneOrRefused p (execMtvecWrite addr mode s) := by
  by_cases hlt : vecPack (s.operand addr) mode < 2 ^ s.cfg.xlen.bits
  · exact execMtvecWrite_of_lt hlt ▸ DoneOrRefused.done rfl
  · exact .inr ⟨_, by decide, execMtvecWrite_of_ge (not_lt.mp hlt)⟩

/-- `MTVEC_TRAP_MODE` answers `ok = 0` only where the configuration gives the code no tag (R89). -/
theorem DoneOrRefused.mtvecTrapMode {p : Prop} (s : State) (hp : s.cfg.extMode = false → 2 ≤ s.mtvec.toNat % 4 → p) :
    DoneOrRefused p (exec .mtvecTrapMode s) := by
  by_cases h : s.cfg.extMode = true ∨ s.mtvec.toNat % 4 < 2
  · obtain ⟨mode, hmode, -⟩ := vecMode_eq_some h
    exact exec_mtvecTrapMode_of_some hmode ▸ DoneOrRefused.done rfl
  · obtain ⟨hnext, hnlt⟩ := not_or.mp h
    exact .inl ⟨_, _, _, exec_mtvecTrapMode_of_none (vecMode_eq_none h), rfl,
      fun _ => hp (Bool.eq_false_iff.mpr hnext) (not_lt.mp hnlt)⟩

/-- Settles O40, an operation at a time; two of them can answer `ok = 0`. -/
theorem everyOperationIsDoneOrRefused : Obligations.EveryOperationIsDoneOrRefused := by
  intro i s
  change DoneOrRefused _ _
  cases i with
  | construct => exact .done rfl
  | mask id => exact .throughHandle s rfl
  | unmask id => exact .throughHandle s rfl
  | isEnabled id => exact .throughHandle s rfl
  | pend id => exact .throughHandle s (s.gated_out ..)
  | unpend id => exact .throughHandle s (s.gated_out ..)
  | isPending id => exact .throughHandle s rfl
  | setLevel id level => exact .throughHandle s rfl
  | getLevel id => exact .throughHandle s rfl
  | idNumber id => exact .idNumber id s
  | idTryFrom code => exact .inl ⟨_, _, _, rfl, rfl, fun _ => .inl ⟨code, rfl⟩⟩
  | mcauseBits => exact .done rfl
  | mcauseCode => exact .done rfl
  | mcauseIsInterrupt => exact .done rfl
  | mcauseIsException => exact .done rfl
  | mcauseCause => exact .done rfl
  | mcauseMpie => exact .inExtended s rfl
  | mcauseMpp => exact .inExtended s rfl
  | mcauseMinhv => exact .inExtended s rfl
  | mtvecAddress => exact .done rfl
  | mtvecTrapMode => exact .mtvecTrapMode s fun hbase hge => .inr ⟨rfl, hbase, hge⟩
  | mtvecWrite addr mode => exact .mtvecWrite addr mode s
  | mtvtAddress => exact .done rfl
  | mtvtWrite addr => exact .done rfl

end Sys2Proof.Machine
end

section
/-! SUPPORT. Two runs of one operation compared (R54, R70 d, D32), and what a kept contract or an aliasing handle relies
on (R110, R116 to R118, R123). -/

namespace Sys2Proof

theorem Config.enabAddr_of_base {c d : Config} (h : d.base = c.base) (id : BitVec 10) :
    d.enabAddr id = c.enabAddr id := by
  simp [Config.enabAddr, h]

theorem Config.pendAddr_of_base {c d : Config} (h : d.base = c.base) (id : BitVec 10) :
    d.pendAddr id = c.pendAddr id := by
  simp [Config.pendAddr, h]

theorem Config.cfgAddr_of_base {c d : Config} (h : d.base = c.base) (id : BitVec 10) :
    d.cfgAddr id = c.cfgAddr id := by
  simp [Config.cfgAddr, h]

theorem Config.gcfgAddr_of_base {c d : Config} (h : d.base = c.base) : d.gcfgAddr = c.gcfgAddr := by
  simp [Config.gcfgAddr, h]

namespace Machine

/-! ## Agreement of the shared conditions -/

/-- Two branches on one condition agree if the outcomes do in each branch. -/
theorem agree_ite {rel : State → State → Prop} {p q : Prop} [Decidable p] [Decidable q]
    {o e o' e' : Host.Outcome State Fault Refusal} (hpq : q ↔ p) (ho : Agree rel o o') (he : Agree rel e e') :
    Agree rel (if p then o else e) (if q then o' else e') := by
  by_cases hp : p
  · rwa [if_pos hp, if_pos (hpq.mpr hp)]
  · rwa [if_neg hp, if_neg (mt hpq.mp hp)]

theorem agree_throughHandle {rel : State → State → Prop} {s u t w : State} (hc : u.constructed = s.constructed)
    (h : rel t w) : Agree rel (s.throughHandle t) (u.throughHandle w) := agree_ite (by rw [hc]) h rfl

theorem agree_inExtended {rel : State → State → Prop} {s u t w : State} (hm : u.cfg.extMode = s.cfg.extMode)
    (h : rel t w) : Agree rel (s.inExtended t) (u.inExtended w) := agree_ite (by rw [hm]) h rfl

/-! ## Another byte in `GCFG` -/

/-- The registers, the handle's bit and every byte but the one at `g` are the same. -/
def State.SameOff (g : Nat) (t u : State) : Prop :=
  t.SameCsrs u ∧ u.constructed = t.constructed ∧ ∀ a, a ≠ g → u.byteAt a = t.byteAt a

/-- Besides, the last step reported the same result and the same access. -/
def State.SameEndOff (g : Nat) (t u : State) : Prop := u.out = t.out ∧ u.bus = t.bus ∧ t.SameOff g u

theorem State.sameOff_putByte (s : State) (g : Nat) (v : Byte) : s.SameOff g (s.putByte g v) :=
  ⟨⟨rfl, rfl, rfl⟩, rfl, fun _ ha => s.byteAt_putByte_other v ha⟩

theorem State.SameOff.report {g : Nat} {t u : State} (h : t.SameOff g u) (o : Output) (x : Access) :
    (t.report o x).SameEndOff g (u.report o x) := ⟨rfl, rfl, h⟩

theorem State.SameOff.doneStore {g : Nat} {t u : State} (h : t.SameOff g u) (a : Nat) (v : Byte) :
    (t.doneStore a v).SameEndOff g (u.doneStore a v) := by
  obtain ⟨hcsrs, hconstructed, hbytes⟩ := h
  refine ⟨rfl, rfl, hcsrs, hconstructed, fun b hb => ?_⟩
  rw [State.byteAt_doneStore, State.byteAt_doneStore, hbytes b hb]

theorem State.SameOff.doneCsrWrite {g : Nat} {t u : State} (h : t.SameOff g u) (hcfg : u.cfg = t.cfg) (r : Csr)
    (v : Word) : (t.doneCsrWrite r v).SameEndOff g (u.doneCsrWrite r v) := by
  obtain ⟨⟨hmcause, hmtvec, hmtvt⟩, hconstructed, hbytes⟩ := h
  refine ⟨by simp, by simp, ⟨by simp [hmcause, hcfg], by simp [hmtvec, hcfg], by simp [hmtvt, hcfg]⟩,
    by simpa using hconstructed, fun b hb => ?_⟩
  rw [State.byteAt_doneCsrWrite, State.byteAt_doneCsrWrite, hbytes b hb]

/-- The entries an operation reads are not at `GCFG`. -/
theorem State.enab_putByte_gcfg (s : State) (v : Byte) (id : BitVec 10) :
    (s.putByte s.cfg.gcfgAddr v).enab id = s.enab id :=
  s.byteAt_putByte_other v (by have := s.cfg.regions_apart id id id; rw [State.putByte_cfg]; omega)

theorem State.pend_putByte_gcfg (s : State) (v : Byte) (id : BitVec 10) :
    (s.putByte s.cfg.gcfgAddr v).pend id = s.pend id :=
  s.byteAt_putByte_other v (by have := s.cfg.regions_apart id id id; rw [State.putByte_cfg]; omega)

theorem State.cfgByte_putByte_gcfg (s : State) (v : Byte) (id : BitVec 10) :
    (s.putByte s.cfg.gcfgAddr v).cfgByte id = s.cfgByte id :=
  s.byteAt_putByte_other v (by have := s.cfg.regions_apart id id id; rw [State.putByte_cfg]; omega)

/-- A gated write, in two states told apart at one address only. -/
theorem State.SameOff.gated {g : Nat} {t u : State} (h : t.SameOff g u) (b : Bool) (a : Nat) (v : Byte) :
    (if b then t.doneStore a v else t.doneQuiet 0 true).SameEndOff g
      (if b then u.doneStore a v else u.doneQuiet 0 true) := by
  cases b
  case true => exact h.doneStore a v
  case false => exact h.report _ _

/-- Settles O18: no operation reads the byte at `GCFG`, so each ends the same way from either state. -/
theorem globalConfigByteSteersNoOperation : Obligations.GlobalConfigByteSteersNoOperation := by
  intro i s v
  change Agree (State.SameEndOff s.cfg.gcfgAddr) _ _
  have h := s.sameOff_putByte s.cfg.gcfgAddr v
  cases i with
  | construct =>
    obtain ⟨hout, hbus, hcsrs, -, hbytes⟩ := h.doneStore s.cfg.gcfgAddr startupPolicy
    exact ⟨hout, hbus, hcsrs, rfl, hbytes⟩
  | mask id => exact agree_throughHandle rfl (h.doneStore _ _)
  | unmask id => exact agree_throughHandle rfl (h.doneStore _ _)
  | isEnabled id =>
    simp only [exec, execIsEnabled, s.enab_putByte_gcfg]
    exact agree_throughHandle rfl (h.report _ _)
  | pend id => exact agree_throughHandle rfl (h.gated _ _ _)
  | unpend id => exact agree_throughHandle rfl (h.gated _ _ _)
  | isPending id =>
    simp only [exec, execIsPending, s.pend_putByte_gcfg]
    exact agree_throughHandle rfl (h.report _ _)
  | setLevel id level =>
    exact agree_throughHandle rfl (State.SameOff.doneStore (t := s.drawn) (u := (s.putByte _ v).drawn) h _ _)
  | getLevel id =>
    simp only [exec, execGetLevel, s.cfgByte_putByte_gcfg]
    exact agree_throughHandle rfl (h.report _ _)
  | idNumber id => exact agree_ite Iff.rfl (h.report _ _) rfl
  | idTryFrom code => exact h.report _ _
  | mcauseBits => exact h.report _ _
  | mcauseCode => exact h.report _ _
  | mcauseIsInterrupt => exact h.report _ _
  | mcauseIsException => exact h.report _ _
  | mcauseCause => exact h.report _ _
  | mcauseMpie => exact agree_inExtended rfl (h.report _ _)
  | mcauseMpp => exact agree_inExtended rfl (h.report _ _)
  | mcauseMinhv => exact agree_inExtended rfl (h.report _ _)
  | mtvecAddress => exact h.report _ _
  | mtvecTrapMode =>
    cases hmode : vecMode s.cfg.extMode s.mtvec with
    | none =>
      rw [exec_mtvecTrapMode_of_none hmode, exec_mtvecTrapMode_of_none (s := s.putByte _ v) hmode]
      exact h.report _ _
    | some mode =>
      rw [exec_mtvecTrapMode_of_some hmode, exec_mtvecTrapMode_of_some (s := s.putByte _ v) hmode]
      exact h.report _ _
  | mtvecWrite addr mode => exact agree_ite Iff.rfl rfl (h.doneCsrWrite rfl _ _)
  | mtvtAddress => exact h.report _ _
  | mtvtWrite addr => exact h.doneCsrWrite rfl _ _

/-! ## Another configuration or identifier set -/

/-- The same state of a block with another configuration and other identifier parameters. -/
def State.underParams (s : State) (b : Bool) (m : Nat) (valid : List Nat) : State :=
  { s with cfg := { s.cfg with extMode := b, max := m, valid := valid } }

theorem State.underMode_eq (s : State) (b : Bool) : s.underMode b = s.underParams b s.cfg.max s.cfg.valid := rfl

theorem State.underIdentifiers_eq (s : State) (m : Nat) (valid : List Nat) :
    s.underIdentifiers m valid = s.underParams s.cfg.extMode m valid := rfl

theorem State.gated_underParams (s : State) (b : Bool) (m : Nat) (valid : List Nat) (g : Bool) (a : Nat) (v : Byte) :
    (if g then (s.underParams b m valid).doneStore a v else (s.underParams b m valid).doneQuiet 0 true) =
      (if g then s.doneStore a v else s.doneQuiet 0 true).underParams b m valid := by cases g <;> rfl

/-- An operation that does not read what differs ends the same way: the addresses, the width and the pendable code are
the same in both blocks. -/
theorem exec_underParams {i : Instr} {s : State} {b : Bool} {m : Nat} {valid : List Nat}
    (hmode : i.dependsOnMode = false ∨ b = s.cfg.extMode)
    (hids : i.readsIdentifiers = false ∨ m = s.cfg.max ∧ valid = s.cfg.valid) :
    Agree (fun t u => u = t.underParams b m valid) (exec i s) (exec i (s.underParams b m valid)) := by
  cases i with
  | construct => rfl
  | mask id => exact agree_throughHandle rfl rfl
  | unmask id => exact agree_throughHandle rfl rfl
  | isEnabled id => exact agree_throughHandle rfl rfl
  | pend id => exact agree_throughHandle rfl (s.gated_underParams ..)
  | unpend id => exact agree_throughHandle rfl (s.gated_underParams ..)
  | isPending id => exact agree_throughHandle rfl rfl
  | setLevel id level => exact agree_throughHandle rfl rfl
  | getLevel id => exact agree_throughHandle rfl rfl
  | idNumber id =>
    obtain ⟨rfl, rfl⟩ := hids.resolve_left (by simp [Instr.readsIdentifiers])
    exact agree_ite Iff.rfl rfl rfl
  | idTryFrom code =>
    obtain ⟨rfl, rfl⟩ := hids.resolve_left (by simp [Instr.readsIdentifiers])
    rfl
  | mcauseBits => rfl
  | mcauseCode => rfl
  | mcauseIsInterrupt => rfl
  | mcauseIsException => rfl
  | mcauseCause =>
    obtain rfl := hmode.resolve_left (by simp [Instr.dependsOnMode])
    rfl
  | mcauseMpie => exact agree_inExtended (hmode.resolve_left (by simp [Instr.dependsOnMode])) rfl
  | mcauseMpp => exact agree_inExtended (hmode.resolve_left (by simp [Instr.dependsOnMode])) rfl
  | mcauseMinhv => exact agree_inExtended (hmode.resolve_left (by simp [Instr.dependsOnMode])) rfl
  | mtvecAddress => rfl
  | mtvecTrapMode =>
    obtain rfl := hmode.resolve_left (by simp [Instr.dependsOnMode])
    cases hread : vecMode s.cfg.extMode s.mtvec with
    | none =>
      rw [exec_mtvecTrapMode_of_none hread, exec_mtvecTrapMode_of_none (s := s.underParams _ m valid) hread]
      rfl
    | some mode =>
      rw [exec_mtvecTrapMode_of_some hread, exec_mtvecTrapMode_of_some (s := s.underParams _ m valid) hread]
      rfl
  | mtvecWrite addr mode => exact agree_ite Iff.rfl rfl rfl
  | mtvtAddress => rfl
  | mtvtWrite addr => rfl

/-- Agreement in one relation is agreement in another that follows from it where the operation completes. -/
theorem agree_of_exec {rel rel' : State → State → Prop} {i : Instr} {s : State} {o : Host.Outcome State Fault Refusal}
    (h : Agree rel (exec i s) o) (himp : ∀ t u, exec i s = .next t → rel t u → rel' t u) : Agree rel' (exec i s) o := by
  cases he : exec i s <;> rw [he] at h <;> cases o
  case next.next t u => exact himp t u he h
  all_goals exact h

/-- Settles O50: with the identifier parameters kept, only the five operations read what differs. -/
theorem configurationSteersFiveOperationsOnly : Obligations.ConfigurationSteersFiveOperationsOnly := by
  intro i s b hi
  refine agree_of_exec (exec_underParams (.inl hi) (.inr ⟨rfl, rfl⟩)) fun t u he hu => ?_
  obtain ⟨hcfg, -, -⟩ := exec_next_setting he
  rw [hu, State.underMode_eq, hcfg]

/-- Settles O51: with the configuration kept, only the two operations read what differs. -/
theorem identifierSetSteersItsOwnOperationsOnly : Obligations.IdentifierSetSteersItsOwnOperationsOnly := by
  intro i s m valid hi
  refine agree_of_exec (exec_underParams (.inr rfl) (.inl hi)) fun t u he hu => ?_
  obtain ⟨hcfg, -, -⟩ := exec_next_setting he
  rw [hu, State.underIdentifiers_eq, hcfg]

/-! ## Contracts and aliasing -/

/-- Settles O52: what an operation changed names the operation, and the contract rules that operation out. -/
theorem keptContractsProtectWhatOthersRelyOn : Obligations.KeptContractsProtectWhatOthersRelyOn := by
  intro r i s t hr h
  refine ⟨fun id hid hmasked => ?masked, fun id hid => ?level, fun hbase => ?tableBase⟩
  case masked =>
    by_contra hne
    obtain rfl | rfl := exec_changed_enab h (hmasked ▸ hne)
    · obtain ⟨-, rfl⟩ := State.throughHandle_next.mp h
      exact hne (s.byteAt_doneStore_same _ _)
    · exact of_decide_eq_true hr hid
  case level =>
    by_contra hne
    obtain ⟨level, rfl⟩ := exec_changed_cfgByte h fun heq => hne (by rw [heq])
    exact of_decide_eq_true hr hid
  case tableBase =>
    by_contra hne
    obtain ⟨addr, rfl⟩ := exec_changed_mtvt h hne
    simp [Instr.respects, hbase] at hr

/-- What one handle sees of another at the same base, with no reset between them: every byte, and its own bit. -/
theorem State.sees_of_resets_eq {b a : State} (h : b.resets = a.resets) :
    (b.sees a).constructed = b.constructed ∧ (b.sees a).inputs = b.inputs ∧ (b.sees a).cfg = b.cfg ∧
    ∀ x, (b.sees a).byteAt x = a.byteAt x := by
  simp only [State.sees, if_pos h]
  split
  · exact ⟨rfl, rfl, rfl, fun x => by simp [State.byteAt, State.unlisted, h]⟩
  · exact ⟨rfl, rfl, rfl, fun x => by simp [State.byteAt, State.unlisted, h]⟩

theorem System.stepThrough_pair {x y t : State} (h : step x = .next t) :
    System.stepThrough [x, y] 0 = .next [t, y.sees t] := by
  simp [System.stepThrough, h]

/-- Settles O53: a command resets nothing, so the other handle sees every byte, at the same addresses. -/
theorem aliasingHandlesShareCellsNotHandleState : Obligations.AliasingHandlesShareCellsNotHandleState := by
  intro x y t c rest hin h hbase hresets
  have hperform := h
  rw [step_cons hin] at hperform
  obtain ⟨i, -, he⟩ := State.perform_next.mp hperform
  obtain ⟨hcfg, htresets, -⟩ := exec_next_setting he
  obtain ⟨hconstructed, hinputs, hycfg, hbytes⟩ := State.sees_of_resets_eq (hresets.trans htresets.symm)
  have hreach : (y.sees t).cfg.base = t.cfg.base := by rw [hycfg, hcfg, hbase]
  refine ⟨_, System.stepThrough_pair h, hconstructed, hinputs, ?_, fun id => ⟨?_, ?_, ?_⟩⟩
  · rw [State.gcfg, State.gcfg, hbytes, Config.gcfgAddr_of_base hreach]
  · rw [State.pend, State.pend, hbytes, Config.pendAddr_of_base hreach]
  · rw [State.enab, State.enab, hbytes, Config.enabAddr_of_base hreach]
  · rw [State.cfgByte, State.cfgByte, hbytes, Config.cfgAddr_of_base hreach]

end Machine

end Sys2Proof
end
